-- ==== Sys2Proof/Word.lean ====
section
/-! DEFINITION. The data word, the shift amount, and the selector of a command's first operand. -/

namespace Sys2Proof

/-- A data or command word: 32 bits, bit 0 least significant (00_scope.md R5, R6). -/
abbrev Word := BitVec 32

/-- A shift amount, the command word's `SH` field: 0 to 31, unsigned (30_encoding.md R36, R38). -/
abbrev Shift := BitVec 5

/-- The command word's `ASEL` bit: where the first operand comes from (30_encoding.md R39). -/
inductive OpASel where
  /-- `ASEL` = 0: port `A`. -/
  | portA
  /-- `ASEL` = 1: the result register `R`. -/
  | regR
  deriving DecidableEq, Repr

end Sys2Proof
end

