-- ==== Sys2Proof/Config.lean ====
section
/-! DEFINITION. What the spec leaves open (00_scope.md R5): one parameter is read by a rule, `R_RESET`. -/

namespace Sys2Proof

/-- FREE VALUE. `R_RESET` (00_scope.md R5; 10_state.md R15, R22; 93_implementation_defined.md U1): the value of `R` after
reset number `n`, where number 0 is power-up. It has no body, so nothing can be proved about its value (log entry 1).
DESIGN CHOICE (unsafe; log entry 14): the spec leaves open whether `R_RESET` is one value for all instances of R108 or one for
each. The draw depends on the number of resets alone, so two instances with equal counts hold and read the same unwritten `R`. -/
opaque Config.rReset (n : Nat) : Word

end Sys2Proof
end

