-- ==== Sys2Proof/Syntax.lean ====
section
/-! DEFINITION. The instructions: one constructor per row of the opcode map (30_encoding.md R40). A constructor carries the
fields the command word gives it: `ASEL` in every one, `SH` in the CMD-S ones (30_encoding.md R36, R37). The operand words
arrive on the ports and are no part of the instruction (30_encoding.md R35). -/

namespace Sys2Proof

/-- One command word's operation (30_encoding.md R40). -/
inductive Instr where
  -- 43_support.md: supporting integer operations
  /-- MOV, `OP` = 0x01 (43_support.md R81). -/
  | mov (asel : OpASel)
  /-- ADD32, `OP` = 0x02 (43_support.md R82). -/
  | add32 (asel : OpASel)
  /-- SUB32, `OP` = 0x03 (43_support.md R83). -/
  | sub32 (asel : OpASel)
  /-- NEG32, `OP` = 0x04 (43_support.md R84). -/
  | neg32 (asel : OpASel)
  /-- ABS32, `OP` = 0x05 (43_support.md R85). -/
  | abs32 (asel : OpASel)
  /-- MAX32, `OP` = 0x06 (43_support.md R86). -/
  | max32 (asel : OpASel)
  /-- MIN32, `OP` = 0x07 (43_support.md R87). -/
  | min32 (asel : OpASel)
  /-- DIV32, `OP` = 0x08 (43_support.md R88). -/
  | div32 (asel : OpASel)
  /-- AND32, `OP` = 0x09 (43_support.md R89). -/
  | and32 (asel : OpASel)
  /-- OR32, `OP` = 0x0A (43_support.md R90). -/
  | or32 (asel : OpASel)
  /-- XOR32, `OP` = 0x0B (43_support.md R91). -/
  | xor32 (asel : OpASel)
  /-- CLZ32, `OP` = 0x0C (43_support.md R92). -/
  | clz32 (asel : OpASel)
  /-- RAND, `OP` = 0x0D (43_support.md R93). -/
  | rand (asel : OpASel)
  -- 40_saturating.md: saturating add, subtract and clamp
  /-- ADD_SAT32, `OP` = 0x10 (40_saturating.md R47). -/
  | addSat32 (asel : OpASel)
  /-- SUB_SAT32, `OP` = 0x11 (40_saturating.md R48). -/
  | subSat32 (asel : OpASel)
  /-- ADD_POS_SAT32, `OP` = 0x12 (40_saturating.md R49). -/
  | addPosSat32 (asel : OpASel)
  /-- ADD_SAT16, `OP` = 0x13 (40_saturating.md R50). -/
  | addSat16 (asel : OpASel)
  /-- SUB_SAT16, `OP` = 0x14 (40_saturating.md R51). -/
  | subSat16 (asel : OpASel)
  /-- SAT16, `OP` = 0x15 (40_saturating.md R52). -/
  | sat16 (asel : OpASel)
  /-- LIMIT32, `OP` = 0x16 (40_saturating.md R53). -/
  | limit32 (asel : OpASel)
  /-- LSHIFT_SAT32, `OP` = 0x17 (40_saturating.md R54). -/
  | lshiftSat32 (asel : OpASel) (sh : Shift)
  -- 41_shift_round.md: rounding and plain shifts
  /-- RSHIFT_ROUND, `OP` = 0x18 (41_shift_round.md R56). -/
  | rshiftRound (asel : OpASel) (sh : Shift)
  /-- LSHIFT32, `OP` = 0x19 (41_shift_round.md R57). -/
  | lshift32 (asel : OpASel) (sh : Shift)
  /-- RSHIFT32, `OP` = 0x1A (41_shift_round.md R58). -/
  | rshift32 (asel : OpASel) (sh : Shift)
  /-- RSHIFT_UINT32, `OP` = 0x1B (41_shift_round.md R59). -/
  | rshiftUint32 (asel : OpASel) (sh : Shift)
  /-- ADD_LSHIFT32, `OP` = 0x1C (41_shift_round.md R60). -/
  | addLshift32 (asel : OpASel) (sh : Shift)
  /-- ADD_RSHIFT32, `OP` = 0x1D (41_shift_round.md R61). -/
  | addRshift32 (asel : OpASel) (sh : Shift)
  /-- SUB_LSHIFT32, `OP` = 0x1E (41_shift_round.md R62). -/
  | subLshift32 (asel : OpASel) (sh : Shift)
  /-- SUB_RSHIFT32, `OP` = 0x1F (41_shift_round.md R63). -/
  | subRshift32 (asel : OpASel) (sh : Shift)
  -- 42_mac.md: Q-format multiply and multiply-accumulate
  /-- SMULBB, `OP` = 0x20 (42_mac.md R66). -/
  | smulbb (asel : OpASel)
  /-- SMLABB, `OP` = 0x21 (42_mac.md R67). -/
  | smlabb (asel : OpASel)
  /-- SMULBT, `OP` = 0x22 (42_mac.md R68). -/
  | smulbt (asel : OpASel)
  /-- SMLABT, `OP` = 0x23 (42_mac.md R69). -/
  | smlabt (asel : OpASel)
  /-- SMULWB, `OP` = 0x24 (42_mac.md R70). -/
  | smulwb (asel : OpASel)
  /-- SMLAWB, `OP` = 0x25 (42_mac.md R71). -/
  | smlawb (asel : OpASel)
  /-- SMULWT, `OP` = 0x26 (42_mac.md R72). -/
  | smulwt (asel : OpASel)
  /-- SMLAWT, `OP` = 0x27 (42_mac.md R73). -/
  | smlawt (asel : OpASel)
  /-- SMULWW, `OP` = 0x28 (42_mac.md R74). -/
  | smulww (asel : OpASel)
  /-- SMLAWW, `OP` = 0x29 (42_mac.md R75). -/
  | smlaww (asel : OpASel)
  /-- MUL32, `OP` = 0x2A (42_mac.md R76). -/
  | mul32 (asel : OpASel)
  /-- MLA32, `OP` = 0x2B (42_mac.md R77). -/
  | mla32 (asel : OpASel)
  deriving DecidableEq, Repr

end Sys2Proof
end

