-- ==== Sys2Proof/WellFormed.lean ====
section
/-! DEFINITION. The instructions a command word can stand for. The only field value an operation forbids is a rounding
shift by 0 (30_encoding.md R38, R42); every other field of every constructor is legal at every value. -/

namespace Sys2Proof

/-- `true` unless the instruction is RSHIFT_ROUND with `SH` = 0 (30_encoding.md R38; 41_shift_round.md R56). -/
def Instr.wellFormed : Instr → Bool
  | .mov _ => true
  | .add32 _ => true
  | .sub32 _ => true
  | .neg32 _ => true
  | .abs32 _ => true
  | .max32 _ => true
  | .min32 _ => true
  | .div32 _ => true
  | .and32 _ => true
  | .or32 _ => true
  | .xor32 _ => true
  | .clz32 _ => true
  | .rand _ => true
  | .addSat32 _ => true
  | .subSat32 _ => true
  | .addPosSat32 _ => true
  | .addSat16 _ => true
  | .subSat16 _ => true
  | .sat16 _ => true
  | .limit32 _ => true
  | .lshiftSat32 _ _ => true
  | .rshiftRound _ sh => sh != 0#5
  | .lshift32 _ _ => true
  | .rshift32 _ _ => true
  | .rshiftUint32 _ _ => true
  | .addLshift32 _ _ => true
  | .addRshift32 _ _ => true
  | .subLshift32 _ _ => true
  | .subRshift32 _ _ => true
  | .smulbb _ => true
  | .smlabb _ => true
  | .smulbt _ => true
  | .smlabt _ => true
  | .smulwb _ => true
  | .smlawb _ => true
  | .smulwt _ => true
  | .smlawt _ => true
  | .smulww _ => true
  | .smlaww _ => true
  | .mul32 _ => true
  | .mla32 _ => true

end Sys2Proof
end

