-- ==== Sys2Proof/Decode.lean ====
section
/-! DEFINITION. The decoder of 30_encoding.md R41, total on every 32-bit word, and the encoder from the same field layout
(R36) and opcode map (R40). A word either decodes to one operation or faults with a named cause (R43). -/

namespace Sys2Proof

/-- The causes a command faults for (60_exceptions.md R95). -/
inductive Cause where
  /-- `OP` is unassigned; raised by the decoder. -/
  | illegalOp
  /-- Bit 7, a bit of 31:13, or `SH` in a CMD-N operation is not 0; raised by the decoder. -/
  | reservedField
  /-- RSHIFT_ROUND with `SH` = 0; raised by the decoder. -/
  | badShift
  /-- DIV32 with a zero divisor; raised by the operation. -/
  | divZero
  /-- `ASEL` = 1 while `RV` = 0; raised by operand selection. -/
  | rUnwritten
  deriving DecidableEq, Repr

/-- The 4-bit code written to `CAUSE` (60_exceptions.md R95). -/
def Cause.code : Cause → BitVec 4
  | .illegalOp => 1#4
  | .reservedField => 2#4
  | .badShift => 3#4
  | .divZero => 4#4
  | .rUnwritten => 5#4

/-- What a command word decodes to (30_encoding.md R41). -/
inductive Decoded where
  /-- The word stands for this operation. -/
  | ok (i : Instr)
  /-- The word faults with this cause. -/
  | fault (c : Cause)
  deriving DecidableEq, Repr

/-- The two command formats (30_encoding.md R37). -/
inductive Format where
  /-- `SH` must be 0. -/
  | cmdN
  /-- `SH` is the shift amount. -/
  | cmdS
  deriving DecidableEq, Repr

/-! ## The fields of an instruction -/

/-- The instruction's `OP` (30_encoding.md R40). -/
def Instr.opcode : Instr → BitVec 6
  | .mov _ => 0x01#6
  | .add32 _ => 0x02#6
  | .sub32 _ => 0x03#6
  | .neg32 _ => 0x04#6
  | .abs32 _ => 0x05#6
  | .max32 _ => 0x06#6
  | .min32 _ => 0x07#6
  | .div32 _ => 0x08#6
  | .and32 _ => 0x09#6
  | .or32 _ => 0x0A#6
  | .xor32 _ => 0x0B#6
  | .clz32 _ => 0x0C#6
  | .rand _ => 0x0D#6
  | .addSat32 _ => 0x10#6
  | .subSat32 _ => 0x11#6
  | .addPosSat32 _ => 0x12#6
  | .addSat16 _ => 0x13#6
  | .subSat16 _ => 0x14#6
  | .sat16 _ => 0x15#6
  | .limit32 _ => 0x16#6
  | .lshiftSat32 _ _ => 0x17#6
  | .rshiftRound _ _ => 0x18#6
  | .lshift32 _ _ => 0x19#6
  | .rshift32 _ _ => 0x1A#6
  | .rshiftUint32 _ _ => 0x1B#6
  | .addLshift32 _ _ => 0x1C#6
  | .addRshift32 _ _ => 0x1D#6
  | .subLshift32 _ _ => 0x1E#6
  | .subRshift32 _ _ => 0x1F#6
  | .smulbb _ => 0x20#6
  | .smlabb _ => 0x21#6
  | .smulbt _ => 0x22#6
  | .smlabt _ => 0x23#6
  | .smulwb _ => 0x24#6
  | .smlawb _ => 0x25#6
  | .smulwt _ => 0x26#6
  | .smlawt _ => 0x27#6
  | .smulww _ => 0x28#6
  | .smlaww _ => 0x29#6
  | .mul32 _ => 0x2A#6
  | .mla32 _ => 0x2B#6

/-- The instruction's `ASEL` (30_encoding.md R39). -/
def Instr.asel : Instr → OpASel
  | .mov asel => asel
  | .add32 asel => asel
  | .sub32 asel => asel
  | .neg32 asel => asel
  | .abs32 asel => asel
  | .max32 asel => asel
  | .min32 asel => asel
  | .div32 asel => asel
  | .and32 asel => asel
  | .or32 asel => asel
  | .xor32 asel => asel
  | .clz32 asel => asel
  | .rand asel => asel
  | .addSat32 asel => asel
  | .subSat32 asel => asel
  | .addPosSat32 asel => asel
  | .addSat16 asel => asel
  | .subSat16 asel => asel
  | .sat16 asel => asel
  | .limit32 asel => asel
  | .lshiftSat32 asel _ => asel
  | .rshiftRound asel _ => asel
  | .lshift32 asel _ => asel
  | .rshift32 asel _ => asel
  | .rshiftUint32 asel _ => asel
  | .addLshift32 asel _ => asel
  | .addRshift32 asel _ => asel
  | .subLshift32 asel _ => asel
  | .subRshift32 asel _ => asel
  | .smulbb asel => asel
  | .smlabb asel => asel
  | .smulbt asel => asel
  | .smlabt asel => asel
  | .smulwb asel => asel
  | .smlawb asel => asel
  | .smulwt asel => asel
  | .smlawt asel => asel
  | .smulww asel => asel
  | .smlaww asel => asel
  | .mul32 asel => asel
  | .mla32 asel => asel

/-- The instruction's format, told by `OP` alone (30_encoding.md R37). -/
def Instr.format : Instr → Format
  | .mov _ => .cmdN
  | .add32 _ => .cmdN
  | .sub32 _ => .cmdN
  | .neg32 _ => .cmdN
  | .abs32 _ => .cmdN
  | .max32 _ => .cmdN
  | .min32 _ => .cmdN
  | .div32 _ => .cmdN
  | .and32 _ => .cmdN
  | .or32 _ => .cmdN
  | .xor32 _ => .cmdN
  | .clz32 _ => .cmdN
  | .rand _ => .cmdN
  | .addSat32 _ => .cmdN
  | .subSat32 _ => .cmdN
  | .addPosSat32 _ => .cmdN
  | .addSat16 _ => .cmdN
  | .subSat16 _ => .cmdN
  | .sat16 _ => .cmdN
  | .limit32 _ => .cmdN
  | .lshiftSat32 _ _ => .cmdS
  | .rshiftRound _ _ => .cmdS
  | .lshift32 _ _ => .cmdS
  | .rshift32 _ _ => .cmdS
  | .rshiftUint32 _ _ => .cmdS
  | .addLshift32 _ _ => .cmdS
  | .addRshift32 _ _ => .cmdS
  | .subLshift32 _ _ => .cmdS
  | .subRshift32 _ _ => .cmdS
  | .smulbb _ => .cmdN
  | .smlabb _ => .cmdN
  | .smulbt _ => .cmdN
  | .smlabt _ => .cmdN
  | .smulwb _ => .cmdN
  | .smlawb _ => .cmdN
  | .smulwt _ => .cmdN
  | .smlawt _ => .cmdN
  | .smulww _ => .cmdN
  | .smlaww _ => .cmdN
  | .mul32 _ => .cmdN
  | .mla32 _ => .cmdN

/-- The instruction's `SH` field: the shift amount in format CMD-S, 0 in format CMD-N (30_encoding.md R36, R37). -/
def Instr.sh : Instr → Shift
  | .mov _ => 0#5
  | .add32 _ => 0#5
  | .sub32 _ => 0#5
  | .neg32 _ => 0#5
  | .abs32 _ => 0#5
  | .max32 _ => 0#5
  | .min32 _ => 0#5
  | .div32 _ => 0#5
  | .and32 _ => 0#5
  | .or32 _ => 0#5
  | .xor32 _ => 0#5
  | .clz32 _ => 0#5
  | .rand _ => 0#5
  | .addSat32 _ => 0#5
  | .subSat32 _ => 0#5
  | .addPosSat32 _ => 0#5
  | .addSat16 _ => 0#5
  | .subSat16 _ => 0#5
  | .sat16 _ => 0#5
  | .limit32 _ => 0#5
  | .lshiftSat32 _ sh => sh
  | .rshiftRound _ sh => sh
  | .lshift32 _ sh => sh
  | .rshift32 _ sh => sh
  | .rshiftUint32 _ sh => sh
  | .addLshift32 _ sh => sh
  | .addRshift32 _ sh => sh
  | .subLshift32 _ sh => sh
  | .subRshift32 _ sh => sh
  | .smulbb _ => 0#5
  | .smlabb _ => 0#5
  | .smulbt _ => 0#5
  | .smlabt _ => 0#5
  | .smulwb _ => 0#5
  | .smlawb _ => 0#5
  | .smulwt _ => 0#5
  | .smlawt _ => 0#5
  | .smulww _ => 0#5
  | .smlaww _ => 0#5
  | .mul32 _ => 0#5
  | .mla32 _ => 0#5

/-- Does the operation read port `B` (30_encoding.md R40)? -/
def Instr.readsB : Instr → Bool
  | .mov _ => false
  | .add32 _ => true
  | .sub32 _ => true
  | .neg32 _ => false
  | .abs32 _ => false
  | .max32 _ => true
  | .min32 _ => true
  | .div32 _ => true
  | .and32 _ => true
  | .or32 _ => true
  | .xor32 _ => true
  | .clz32 _ => false
  | .rand _ => false
  | .addSat32 _ => true
  | .subSat32 _ => true
  | .addPosSat32 _ => true
  | .addSat16 _ => true
  | .subSat16 _ => true
  | .sat16 _ => false
  | .limit32 _ => true
  | .lshiftSat32 _ _ => false
  | .rshiftRound _ _ => false
  | .lshift32 _ _ => false
  | .rshift32 _ _ => false
  | .rshiftUint32 _ _ => false
  | .addLshift32 _ _ => true
  | .addRshift32 _ _ => true
  | .subLshift32 _ _ => true
  | .subRshift32 _ _ => true
  | .smulbb _ => true
  | .smlabb _ => true
  | .smulbt _ => true
  | .smlabt _ => true
  | .smulwb _ => true
  | .smlawb _ => true
  | .smulwt _ => true
  | .smlawt _ => true
  | .smulww _ => true
  | .smlaww _ => true
  | .mul32 _ => true
  | .mla32 _ => true

/-- Does the operation read port `C` (30_encoding.md R40)? -/
def Instr.readsC : Instr → Bool
  | .mov _ => false
  | .add32 _ => false
  | .sub32 _ => false
  | .neg32 _ => false
  | .abs32 _ => false
  | .max32 _ => false
  | .min32 _ => false
  | .div32 _ => false
  | .and32 _ => false
  | .or32 _ => false
  | .xor32 _ => false
  | .clz32 _ => false
  | .rand _ => false
  | .addSat32 _ => false
  | .subSat32 _ => false
  | .addPosSat32 _ => false
  | .addSat16 _ => false
  | .subSat16 _ => false
  | .sat16 _ => false
  | .limit32 _ => true
  | .lshiftSat32 _ _ => false
  | .rshiftRound _ _ => false
  | .lshift32 _ _ => false
  | .rshift32 _ _ => false
  | .rshiftUint32 _ _ => false
  | .addLshift32 _ _ => false
  | .addRshift32 _ _ => false
  | .subLshift32 _ _ => false
  | .subRshift32 _ _ => false
  | .smulbb _ => false
  | .smlabb _ => true
  | .smulbt _ => false
  | .smlabt _ => true
  | .smulwb _ => false
  | .smlawb _ => true
  | .smulwt _ => false
  | .smlawt _ => true
  | .smulww _ => false
  | .smlaww _ => true
  | .mul32 _ => false
  | .mla32 _ => true

/-! ## The fields of a command word (30_encoding.md R36) -/

/-- `OP`, bits 5:0. -/
def opField (w : Word) : BitVec 6 := w.extractLsb' 0 6

/-- `ASEL`, bit 6. -/
def aselField (w : Word) : OpASel := if w.getLsbD 6 then .regR else .portA

/-- `SH`, bits 12:8. -/
def shField (w : Word) : Shift := w.extractLsb' 8 5

/-- Bit 7 and bits 31:13 are all 0. -/
def reservedClear (w : Word) : Bool := !w.getLsbD 7 && w.extractLsb' 13 19 == 0#19

/-! ## Decoding -/

/-- The operation an `OP` value selects (30_encoding.md R40), with the fields it carries; `none` for an unassigned `OP`. -/
def instrOf (op : Nat) (asel : OpASel) (sh : Shift) : Option Instr :=
  match op with
  | 0x01 => some (.mov asel)
  | 0x02 => some (.add32 asel)
  | 0x03 => some (.sub32 asel)
  | 0x04 => some (.neg32 asel)
  | 0x05 => some (.abs32 asel)
  | 0x06 => some (.max32 asel)
  | 0x07 => some (.min32 asel)
  | 0x08 => some (.div32 asel)
  | 0x09 => some (.and32 asel)
  | 0x0A => some (.or32 asel)
  | 0x0B => some (.xor32 asel)
  | 0x0C => some (.clz32 asel)
  | 0x0D => some (.rand asel)
  | 0x10 => some (.addSat32 asel)
  | 0x11 => some (.subSat32 asel)
  | 0x12 => some (.addPosSat32 asel)
  | 0x13 => some (.addSat16 asel)
  | 0x14 => some (.subSat16 asel)
  | 0x15 => some (.sat16 asel)
  | 0x16 => some (.limit32 asel)
  | 0x17 => some (.lshiftSat32 asel sh)
  | 0x18 => some (.rshiftRound asel sh)
  | 0x19 => some (.lshift32 asel sh)
  | 0x1A => some (.rshift32 asel sh)
  | 0x1B => some (.rshiftUint32 asel sh)
  | 0x1C => some (.addLshift32 asel sh)
  | 0x1D => some (.addRshift32 asel sh)
  | 0x1E => some (.subLshift32 asel sh)
  | 0x1F => some (.subRshift32 asel sh)
  | 0x20 => some (.smulbb asel)
  | 0x21 => some (.smlabb asel)
  | 0x22 => some (.smulbt asel)
  | 0x23 => some (.smlabt asel)
  | 0x24 => some (.smulwb asel)
  | 0x25 => some (.smlawb asel)
  | 0x26 => some (.smulwt asel)
  | 0x27 => some (.smlawt asel)
  | 0x28 => some (.smulww asel)
  | 0x29 => some (.smlaww asel)
  | 0x2A => some (.mul32 asel)
  | 0x2B => some (.mla32 asel)
  | _ => none

/-- Decoding of a command word, its checks in the order of 30_encoding.md R41. -/
def decode (w : Word) : Decoded :=
  match instrOf (opField w).toNat (aselField w) (shField w) with
  | none => .fault .illegalOp
  | some i =>
    if !reservedClear w then .fault .reservedField
    else if i.format = .cmdN ∧ shField w ≠ 0#5 then .fault .reservedField
    else if !i.wellFormed then .fault .badShift
    else .ok i

/-! ## Encoding -/

/-- The `ASEL` bit of a selector. -/
def OpASel.bit : OpASel → BitVec 1
  | .portA => 0#1
  | .regR => 1#1

/-- The command word of an instruction, most significant bit first:
`0000000000000000000 SSSSS 0 a OOOOOO` (30_encoding.md R36). -/
def encode (i : Instr) : Word := 0#19 ++ i.sh ++ 0#1 ++ i.asel.bit ++ i.opcode

/-- The host's question about one row of the opcode table: the instruction the decoder reads from a word whose low `nbits`
bits are those of `w` and whose other bits are 0. A command is one 32-bit word and has no bytes (20_memory.md R26), so the
bits are the word's own. -/
def decodeTableWord (nbits w : Nat) : Option Instr :=
  match decode (BitVec.ofNat 32 (w % 2 ^ nbits)) with
  | .ok i => some i
  | .fault _ => none

end Sys2Proof
end

