-- ==== Sys2Proof/Machine/State.lean ====
section
/-! DEFINITION. The state of one unit as plain data (10_state.md R11), with the host's inputs and outputs as lists, and the
state after reset (10_state.md R22). The unit has no memory (20_memory.md R24), so State holds none. -/

namespace Sys2Proof.Machine

/-- The values on the three 32-bit operand ports (10_state.md R12). -/
structure Ports where
  /-- Port `A`, the first operand where `ASEL` = 0. -/
  a : Word
  /-- Port `B`, the second operand. -/
  b : Word
  /-- Port `C`, the third operand. -/
  c : Word
  deriving DecidableEq, Repr

/-- A command: the command word and the three operand words, presented together (30_encoding.md R35). -/
structure Command where
  /-- The command word. -/
  word : Word
  /-- The operand words. -/
  ports : Ports
  deriving DecidableEq, Repr

/-- What the host may do to the unit (70_reset_and_hazards.md R119). -/
inductive HostAction where
  /-- Issue a command and wait for its completion (70_reset_and_hazards.md R115). -/
  | issue (c : Command)
  /-- Assert reset between two commands (70_reset_and_hazards.md R111). -/
  | reset
  /-- Issue a command and assert reset before it completes, which aborts it (70_reset_and_hazards.md R112). -/
  | resetDuring (c : Command)
  /-- Read `R` (10_state.md R15). -/
  | readR
  /-- Read `STATUS` (10_state.md R16). -/
  | readStatus
  deriving DecidableEq, Repr

/-- A value the host has read (70_reset_and_hazards.md R120). -/
inductive HostRead where
  /-- A read of `R` gave `v`. -/
  | r (v : Word)
  /-- A read of `STATUS` gave `v`. -/
  | status (v : Word)
  deriving DecidableEq, Repr

/-- One unit: the four items of 10_state.md R11, then the model's own fields, which hold the inputs and outputs of a step
and are no state of the unit (log entries 1 to 4). -/
structure State where
  /-- `R`, the result register (10_state.md R13). -/
  r : Word
  /-- `RV`: `R` has been written since reset (10_state.md R14). -/
  rv : Bool
  /-- `FLT`, the sticky fault flag (10_state.md R17). -/
  flt : Bool
  /-- `CAUSE`, the code of the first fault since reset (10_state.md R17). -/
  cause : BitVec 4
  /-- MODEL. The operand words sampled at issue (20_memory.md R29; log entry 2). -/
  ports : Ports
  /-- MODEL. What the host will do, oldest first (log entry 3). -/
  pending : List HostAction
  /-- MODEL. What the host has read, oldest first (log entry 4). -/
  reads : List HostRead
  /-- MODEL. Resets since power-up: the index of the current `R_RESET` (log entry 1). -/
  resets : Nat
  deriving DecidableEq, Repr

/-- Why a step of the machine stops with a fault: never. A command's fault (60_exceptions.md R95) is recorded in `FLT` and
`CAUSE` and the unit goes on (R98), so every fault of the spec is a next state and this type has no constructor (safe; log
entry 9). -/
inductive Fault
  deriving DecidableEq, Repr

/-- Why a step of the machine is refused. -/
inductive Refusal where
  /-- Raised by an arm of `exec` whose instruction has no meaning yet; no arm raises it (safe). -/
  | notModelled (mnemonic : String)
  deriving DecidableEq, Repr

/-- The machine right after reset (10_state.md R22): `RV`, `FLT` and `CAUSE` are 0 and `R` is `R_RESET`. The values of the
model's own fields are DESIGN CHOICES (log entries 1 to 4). -/
def State.reset : State where
  r := Config.rReset 0
  rv := false
  flt := false
  cause := 0#4
  ports := ⟨0#32, 0#32, 0#32⟩
  pending := []
  reads := []
  resets := 0

end Sys2Proof.Machine
end

