-- ==== Sys2Proof/Machine/Flags.lean ====
section
/-! DEFINITION. The status register. No operation computes a condition code (10_state.md R19); the only flags are `RV`, `FLT`
and `CAUSE`, which the host sees through `STATUS`. -/

namespace Sys2Proof.Machine

/-- `STATUS` (10_state.md R16): bit 0 `RV`, bit 1 `FLT`, bits 7:4 `CAUSE`, every other bit 0. -/
def status (s : State) : Word := 0#24 ++ s.cause ++ 0#2 ++ BitVec.ofBool s.flt ++ BitVec.ofBool s.rv

end Sys2Proof.Machine
end

