-- ==== Sys2Proof/Machine/Arith.lean ====
section
/-! DEFINITION. The values, wraps, saturations, shifts and division of 00_scope.md R6 to R8, on unbounded integers. -/

namespace Sys2Proof.Machine

/-- `INT32_MAX` (00_scope.md R6). -/
def int32Max : Int := 2147483647

/-- `INT32_MIN` (00_scope.md R6). -/
def int32Min : Int := -2147483648

/-- `INT16_MAX` (00_scope.md R6). -/
def int16Max : Int := 32767

/-- `INT16_MIN` (00_scope.md R6). -/
def int16Min : Int := -32768

/-- The two's-complement value of a word (00_scope.md R6). -/
def s32 (x : Word) : Int := x.toInt

/-- The unsigned value of a word (00_scope.md R6). -/
def u32 (x : Word) : Int := x.toNat

/-- The word whose two's-complement value is congruent to `n` modulo 2^32 (00_scope.md R7), which is also what writing `n`
to a 32-bit register leaves there (R9). -/
def wrap32 (n : Int) : Word := BitVec.ofInt 32 n

/-- The nearest value to `n` between `lo` and `hi`, for `lo ≤ hi` (00_scope.md R7). -/
def clamp (n lo hi : Int) : Int := if n < lo then lo else if hi < n then hi else n

/-- Saturation to the 32-bit range (00_scope.md R7). -/
def sat32 (n : Int) : Int := clamp n int32Min int32Max

/-- Saturation to the 16-bit range (00_scope.md R7). -/
def sat16 (n : Int) : Int := clamp n int16Min int16Max

/-- `floor (n / 2 ^ s)`: integer division by a positive number is the floor. -/
def floorShift (n : Int) (s : Nat) : Int := n / 2 ^ s

/-- Arithmetic right shift (00_scope.md R8). -/
def asr (x : Word) (s : Nat) : Int := floorShift (s32 x) s

/-- Logical right shift (00_scope.md R8). -/
def lsr (x : Word) (s : Nat) : Int := floorShift (u32 x) s

/-- Left shift; the bits above bit 31 are lost (00_scope.md R8). -/
def lsl (x : Word) (s : Nat) : Word := wrap32 (s32 x * 2 ^ s)

/-- Division rounding toward zero, for a divisor that is not 0 (00_scope.md R8). -/
def tdiv (n d : Int) : Int := n.tdiv d

end Sys2Proof.Machine
end

