-- ==== Sys2Proof/Machine/Operands.lean ====
section
/-! DEFINITION. The operand forms: the two signed halfword views of a word, and the first operand of a command. -/

namespace Sys2Proof.Machine

/-- The bottom halfword, signed (00_scope.md R8; 20_memory.md R27). -/
def lo16 (x : Word) : Int := (x.extractLsb' 0 16).toInt

/-- The top halfword, signed (00_scope.md R8; 20_memory.md R27). -/
def hi16 (x : Word) : Int := (x.extractLsb' 16 16).toInt

/-- `opA`: `R` if `ASEL` = 1, port `A` otherwise (00_scope.md R9; 30_encoding.md R39). -/
def opA (asel : OpASel) (s : State) : Word :=
  match asel with
  | .portA => s.ports.a
  | .regR => s.r

/-- May the first operand be read: `ASEL` = 1 needs `RV` = 1 (10_state.md R14). -/
def opAReadable (asel : OpASel) (s : State) : Bool :=
  match asel with
  | .portA => true
  | .regR => s.rv

end Sys2Proof.Machine
end

