-- ==== Sys2Proof/Machine/Ops.lean ====
section
/-! DEFINITION. The named operations on the state: writing the result, entering the faulted state, leaving it by reset,
performing a command, and what each action of the host does. -/

namespace Sys2Proof.Machine

open Host (Outcome)

/-- What the operation of a command yields (10_state.md R23). -/
inductive Executed where
  /-- The result. -/
  | value (v : Word)
  /-- The operation faults. -/
  | fault (c : Cause)
  deriving DecidableEq, Repr

/-- `R <- v; RV <- 1` (00_scope.md R9; 10_state.md R13). -/
def writeR (v : Word) (s : State) : State := { s with r := v, rv := true }

/-- Fault entry: `FLT <- 1; CAUSE <- c` and nothing else (60_exceptions.md R98). -/
def takeFault (c : Cause) (s : State) : State := { s with flt := true, cause := c.code }

/-- `raise Fault(c)` (00_scope.md R9): fault entry while `FLT` = 0; while `FLT` = 1 the command is ignored
(60_exceptions.md R99). -/
def raiseFault (c : Cause) (s : State) : Outcome State Fault Refusal :=
  if s.flt then .next s else .next (takeFault c s)

/-- Reset, the only way out of the faulted state (60_exceptions.md R100): `RV`, `FLT` and `CAUSE` become 0 and `R` takes
`R_RESET` (70_reset_and_hazards.md R111). -/
def resetUnit (s : State) : State :=
  { s with r := Config.rReset (s.resets + 1), rv := false, flt := false, cause := 0#4, resets := s.resets + 1 }

/-- Performs a command whose word has decoded (10_state.md R23): ignored while `FLT` = 1; `R_UNWRITTEN` if the first operand
may not be read; otherwise the operation `f` of the first operand, whose value is written or whose fault is taken. -/
def perform (asel : OpASel) (s : State) (f : Word → Executed) : Outcome State Fault Refusal :=
  if s.flt then .next s
  else if !opAReadable asel s then raiseFault .rUnwritten s
  else match f (opA asel s) with
    | .fault c => raiseFault c s
    | .value v => .next (writeR v s)

/-- Performs an operation that faults on no operand value (60_exceptions.md R96). -/
def performValue (asel : OpASel) (s : State) (f : Word → Word) : Outcome State Fault Refusal :=
  perform asel s fun a => .value (f a)

/-- The unit samples the operand words at issue (20_memory.md R29; 70_reset_and_hazards.md R115). -/
def sample (p : Ports) (s : State) : State := { s with ports := p }

/-- A command issued to the unit (10_state.md R23), where `run` gives each instruction its meaning: ignored while `FLT` = 1;
otherwise decoded, and faulted or performed. -/
def issue (run : Instr → State → Outcome State Fault Refusal) (c : Command) (s : State) : Outcome State Fault Refusal :=
  if s.flt then .next s
  else match decode c.word with
    | .fault e => raiseFault e (sample c.ports s)
    | .ok i => run i (sample c.ports s)

/-- The value a read of `R` gives (10_state.md R15): the last result while `RV` = 1, and the unspecified `R_RESET` while
`RV` = 0. -/
def readR (s : State) : Word := if s.rv then s.r else Config.rReset s.resets

/-- The host notes a value it has read; the unit does not change (10_state.md R15, R16). -/
def record (v : HostRead) (s : State) : State := { s with reads := s.reads ++ [v] }

/-- One action of the host on the unit (70_reset_and_hazards.md R119). -/
def act (run : Instr → State → Outcome State Fault Refusal) (h : HostAction) (s : State) : Outcome State Fault Refusal :=
  match h with
  | .issue c => issue run c s
  | .reset => .next (resetUnit s)
  | .resetDuring _ => .next (resetUnit s)
  | .readR => .next (record (.r (readR s)) s)
  | .readStatus => .next (record (.status (status s)) s)

/-- One step: the host's next action, or, if it does nothing, the state held unchanged (60_exceptions.md R110). -/
def advance (run : Instr → State → Outcome State Fault Refusal) (s : State) : Outcome State Fault Refusal :=
  match s.pending with
  | [] => .next s
  | h :: rest => act run h { s with pending := rest }

/-- The state whose next step is that command; the host's other actions follow it. -/
def placeCommand (c : Command) (s : State) : State := { s with pending := .issue c :: s.pending }

end Sys2Proof.Machine
end

