-- ==== Sys2Proof/Machine/Mac.lean ====
section
/-! DEFINITION. Q-format multiply and multiply-accumulate (42_mac.md). The product is exact; accumulation wraps and never saturates (R65). -/

namespace Sys2Proof.Machine

open Host (Outcome)

/-- A product scaled by 2^-16: its low 16 bits are dropped, rounding toward minus infinity (42_mac.md R70, R79). -/
def scaled (x y : Int) : Int := floorShift (x * y) 16

/-- SMULBB (42_mac.md R66). The product of the bottom halfwords. -/
def smulbb (a b : Word) : Word :=
  wrap32 (lo16 a * lo16 b)

/-- SMULBB (42_mac.md R66). -/
def execSmulbb (asel : OpASel) (s : State) : Outcome State Fault Refusal :=
  performValue asel s fun a => smulbb a s.ports.b

/-- SMLABB (42_mac.md R67). The accumulator plus a bottom by bottom product. -/
def smlabb (a b c : Word) : Word :=
  wrap32 (s32 a + lo16 b * lo16 c)

/-- SMLABB (42_mac.md R67). -/
def execSmlabb (asel : OpASel) (s : State) : Outcome State Fault Refusal :=
  performValue asel s fun a => smlabb a s.ports.b s.ports.c

/-- SMULBT (42_mac.md R68). The product of the bottom and the top halfword. -/
def smulbt (a b : Word) : Word :=
  wrap32 (lo16 a * hi16 b)

/-- SMULBT (42_mac.md R68). -/
def execSmulbt (asel : OpASel) (s : State) : Outcome State Fault Refusal :=
  performValue asel s fun a => smulbt a s.ports.b

/-- SMLABT (42_mac.md R69). The accumulator plus a bottom by top product. -/
def smlabt (a b c : Word) : Word :=
  wrap32 (s32 a + lo16 b * hi16 c)

/-- SMLABT (42_mac.md R69). -/
def execSmlabt (asel : OpASel) (s : State) : Outcome State Fault Refusal :=
  performValue asel s fun a => smlabt a s.ports.b s.ports.c

/-- SMULWB (42_mac.md R70). The scaled product of the word and the bottom halfword. -/
def smulwb (a b : Word) : Word :=
  wrap32 (scaled (s32 a) (lo16 b))

/-- SMULWB (42_mac.md R70). -/
def execSmulwb (asel : OpASel) (s : State) : Outcome State Fault Refusal :=
  performValue asel s fun a => smulwb a s.ports.b

/-- SMLAWB (42_mac.md R71). The accumulator plus a scaled product with the bottom halfword, floored before the sum. -/
def smlawb (a b c : Word) : Word :=
  wrap32 (s32 a + scaled (s32 b) (lo16 c))

/-- SMLAWB (42_mac.md R71). -/
def execSmlawb (asel : OpASel) (s : State) : Outcome State Fault Refusal :=
  performValue asel s fun a => smlawb a s.ports.b s.ports.c

/-- SMULWT (42_mac.md R72). The scaled product of the word and the top halfword. -/
def smulwt (a b : Word) : Word :=
  wrap32 (scaled (s32 a) (hi16 b))

/-- SMULWT (42_mac.md R72). -/
def execSmulwt (asel : OpASel) (s : State) : Outcome State Fault Refusal :=
  performValue asel s fun a => smulwt a s.ports.b

/-- SMLAWT (42_mac.md R73). The accumulator plus a scaled product with the top halfword, floored before the sum. -/
def smlawt (a b c : Word) : Word :=
  wrap32 (s32 a + scaled (s32 b) (hi16 c))

/-- SMLAWT (42_mac.md R73). -/
def execSmlawt (asel : OpASel) (s : State) : Outcome State Fault Refusal :=
  performValue asel s fun a => smlawt a s.ports.b s.ports.c

/-- SMULWW (42_mac.md R74). The scaled product of two words, wrapping. -/
def smulww (a b : Word) : Word :=
  wrap32 (scaled (s32 a) (s32 b))

/-- SMULWW (42_mac.md R74). -/
def execSmulww (asel : OpASel) (s : State) : Outcome State Fault Refusal :=
  performValue asel s fun a => smulww a s.ports.b

/-- SMLAWW (42_mac.md R75). The accumulator plus a scaled product of two words, wrapping. -/
def smlaww (a b c : Word) : Word :=
  wrap32 (s32 a + scaled (s32 b) (s32 c))

/-- SMLAWW (42_mac.md R75). -/
def execSmlaww (asel : OpASel) (s : State) : Outcome State Fault Refusal :=
  performValue asel s fun a => smlaww a s.ports.b s.ports.c

/-- MUL32 (42_mac.md R76). The low 32 bits of the product. -/
def mul32 (a b : Word) : Word :=
  wrap32 (s32 a * s32 b)

/-- MUL32 (42_mac.md R76). -/
def execMul32 (asel : OpASel) (s : State) : Outcome State Fault Refusal :=
  performValue asel s fun a => mul32 a s.ports.b

/-- MLA32 (42_mac.md R77). The low 32 bits of the accumulator plus a product. -/
def mla32 (a b c : Word) : Word :=
  wrap32 (s32 a + s32 b * s32 c)

/-- MLA32 (42_mac.md R77). -/
def execMla32 (asel : OpASel) (s : State) : Outcome State Fault Refusal :=
  performValue asel s fun a => mla32 a s.ports.b s.ports.c

end Sys2Proof.Machine
end

