-- ==== Sys2Proof/Machine/Saturating.lean ====
section
/-! DEFINITION. Saturating add, subtract and clamp (40_saturating.md). Arithmetic on exact integers; overflow is never an error (R46). -/

namespace Sys2Proof.Machine

open Host (Outcome)

/-- ADD_SAT32 (40_saturating.md R47). The sum, saturated to 32 bits. -/
def addSat32 (a b : Word) : Word :=
  wrap32 (sat32 (s32 a + s32 b))

/-- ADD_SAT32 (40_saturating.md R47). -/
def execAddSat32 (asel : OpASel) (s : State) : Outcome State Fault Refusal :=
  performValue asel s fun a => addSat32 a s.ports.b

/-- SUB_SAT32 (40_saturating.md R48). The difference, saturated to 32 bits. -/
def subSat32 (a b : Word) : Word :=
  wrap32 (sat32 (s32 a - s32 b))

/-- SUB_SAT32 (40_saturating.md R48). -/
def execSubSat32 (asel : OpASel) (s : State) : Outcome State Fault Refusal :=
  performValue asel s fun a => subSat32 a s.ports.b

/-- ADD_POS_SAT32 (40_saturating.md R49). The wrapping sum, or `INT32_MAX` where that is negative: no saturation of a negative operand. -/
def addPosSat32 (a b : Word) : Word :=
  let v := wrap32 (s32 a + s32 b)
  if s32 v < 0 then wrap32 int32Max else v

/-- ADD_POS_SAT32 (40_saturating.md R49). -/
def execAddPosSat32 (asel : OpASel) (s : State) : Outcome State Fault Refusal :=
  performValue asel s fun a => addPosSat32 a s.ports.b

/-- ADD_SAT16 (40_saturating.md R50). The sum of the bottom halfwords, saturated to 16 bits and sign-extended. -/
def addSat16 (a b : Word) : Word :=
  wrap32 (sat16 (lo16 a + lo16 b))

/-- ADD_SAT16 (40_saturating.md R50). -/
def execAddSat16 (asel : OpASel) (s : State) : Outcome State Fault Refusal :=
  performValue asel s fun a => addSat16 a s.ports.b

/-- SUB_SAT16 (40_saturating.md R51). The difference of the bottom halfwords, saturated to 16 bits and sign-extended. -/
def subSat16 (a b : Word) : Word :=
  wrap32 (sat16 (lo16 a - lo16 b))

/-- SUB_SAT16 (40_saturating.md R51). -/
def execSubSat16 (asel : OpASel) (s : State) : Outcome State Fault Refusal :=
  performValue asel s fun a => subSat16 a s.ports.b

/-- SAT16 (40_saturating.md R52). The whole word, saturated to 16 bits and sign-extended. -/
def sat16Word (a : Word) : Word :=
  wrap32 (sat16 (s32 a))

/-- SAT16 (40_saturating.md R52). -/
def execSat16 (asel : OpASel) (s : State) : Outcome State Fault Refusal :=
  performValue asel s fun a => sat16Word a

/-- LIMIT32 (40_saturating.md R53). The value clamped between two limits given in either order. -/
def limit32 (a l1 l2 : Word) : Word :=
  if s32 l2 < s32 l1 then
    if s32 l1 < s32 a then l1 else if s32 a < s32 l2 then l2 else a
  else
    if s32 l2 < s32 a then l2 else if s32 a < s32 l1 then l1 else a

/-- LIMIT32 (40_saturating.md R53). -/
def execLimit32 (asel : OpASel) (s : State) : Outcome State Fault Refusal :=
  performValue asel s fun a => limit32 a s.ports.b s.ports.c

/-- LSHIFT_SAT32 (40_saturating.md R54). The value limited to what shifts without overflow, then shifted. -/
def lshiftSat32 (a : Word) (sh : Shift) : Word :=
  lsl (wrap32 (clamp (s32 a) (asr (wrap32 int32Min) sh.toNat) (asr (wrap32 int32Max) sh.toNat))) sh.toNat

/-- LSHIFT_SAT32 (40_saturating.md R54). -/
def execLshiftSat32 (asel : OpASel) (sh : Shift) (s : State) : Outcome State Fault Refusal :=
  performValue asel s fun a => lshiftSat32 a sh

end Sys2Proof.Machine
end

