-- ==== Sys2Proof/Machine/ShiftRound.lean ====
section
/-! DEFINITION. Rounding and plain shifts (41_shift_round.md). All read the shift amount `SH`, 0 to 31 (R55). -/

namespace Sys2Proof.Machine

open Host (Outcome)

/-- RSHIFT_ROUND (41_shift_round.md R56). The right shift rounding to nearest, ties toward plus infinity, for `SH` in 1 to 31. -/
def rshiftRound (a : Word) (sh : Shift) : Word :=
  wrap32 (floorShift (s32 a + 2 ^ (sh.toNat - 1)) sh.toNat)

/-- RSHIFT_ROUND (41_shift_round.md R56). `SH` = 0 faults with `BAD_SHIFT`, before `R_UNWRITTEN` (60_exceptions.md R97); the decoder faults
on it first, so only the ill-formed instruction comes here with it (log entry 10). -/
def execRshiftRound (asel : OpASel) (sh : Shift) (s : State) : Outcome State Fault Refusal :=
  if sh = 0#5 then raiseFault .badShift s
  else performValue asel s fun a => rshiftRound a sh

/-- LSHIFT32 (41_shift_round.md R57). The wrapping left shift. -/
def lshift32 (a : Word) (sh : Shift) : Word :=
  lsl a sh.toNat

/-- LSHIFT32 (41_shift_round.md R57). -/
def execLshift32 (asel : OpASel) (sh : Shift) (s : State) : Outcome State Fault Refusal :=
  performValue asel s fun a => lshift32 a sh

/-- RSHIFT32 (41_shift_round.md R58). The arithmetic right shift. -/
def rshift32 (a : Word) (sh : Shift) : Word :=
  wrap32 (asr a sh.toNat)

/-- RSHIFT32 (41_shift_round.md R58). -/
def execRshift32 (asel : OpASel) (sh : Shift) (s : State) : Outcome State Fault Refusal :=
  performValue asel s fun a => rshift32 a sh

/-- RSHIFT_UINT32 (41_shift_round.md R59). The logical right shift. -/
def rshiftUint32 (a : Word) (sh : Shift) : Word :=
  wrap32 (lsr a sh.toNat)

/-- RSHIFT_UINT32 (41_shift_round.md R59). -/
def execRshiftUint32 (asel : OpASel) (sh : Shift) (s : State) : Outcome State Fault Refusal :=
  performValue asel s fun a => rshiftUint32 a sh

/-- ADD_LSHIFT32 (41_shift_round.md R60). The sum with a left-shifted operand; the shift wraps first. -/
def addLshift32 (a b : Word) (sh : Shift) : Word :=
  wrap32 (s32 a + s32 (lsl b sh.toNat))

/-- ADD_LSHIFT32 (41_shift_round.md R60). -/
def execAddLshift32 (asel : OpASel) (sh : Shift) (s : State) : Outcome State Fault Refusal :=
  performValue asel s fun a => addLshift32 a s.ports.b sh

/-- ADD_RSHIFT32 (41_shift_round.md R61). The sum with an arithmetically right-shifted operand. -/
def addRshift32 (a b : Word) (sh : Shift) : Word :=
  wrap32 (s32 a + asr b sh.toNat)

/-- ADD_RSHIFT32 (41_shift_round.md R61). -/
def execAddRshift32 (asel : OpASel) (sh : Shift) (s : State) : Outcome State Fault Refusal :=
  performValue asel s fun a => addRshift32 a s.ports.b sh

/-- SUB_LSHIFT32 (41_shift_round.md R62). The difference with a left-shifted operand; the shift wraps first. -/
def subLshift32 (a b : Word) (sh : Shift) : Word :=
  wrap32 (s32 a - s32 (lsl b sh.toNat))

/-- SUB_LSHIFT32 (41_shift_round.md R62). -/
def execSubLshift32 (asel : OpASel) (sh : Shift) (s : State) : Outcome State Fault Refusal :=
  performValue asel s fun a => subLshift32 a s.ports.b sh

/-- SUB_RSHIFT32 (41_shift_round.md R63). The difference with an arithmetically right-shifted operand. -/
def subRshift32 (a b : Word) (sh : Shift) : Word :=
  wrap32 (s32 a - asr b sh.toNat)

/-- SUB_RSHIFT32 (41_shift_round.md R63). -/
def execSubRshift32 (asel : OpASel) (sh : Shift) (s : State) : Outcome State Fault Refusal :=
  performValue asel s fun a => subRshift32 a s.ports.b sh

end Sys2Proof.Machine
end

