-- ==== Sys2Proof/Machine/Support.lean ====
section
/-! DEFINITION. The supporting integer operations (43_support.md). Each wraps modulo 2^32 where its rule says so and none saturates (R80). -/

namespace Sys2Proof.Machine

open Host (Outcome)

/-- The position of the most significant 1 among the low `n` bits of a word. -/
def topBit (x : Word) : Nat → Option Nat
  | 0 => none
  | n + 1 => if x.getLsbD n then some n else topBit x n

/-- MOV (43_support.md R81). The operand itself. -/
def mov (a : Word) : Word :=
  a

/-- MOV (43_support.md R81). -/
def execMov (asel : OpASel) (s : State) : Outcome State Fault Refusal :=
  performValue asel s fun a => mov a

/-- ADD32 (43_support.md R82). The wrapping sum. -/
def add32 (a b : Word) : Word :=
  wrap32 (s32 a + s32 b)

/-- ADD32 (43_support.md R82). -/
def execAdd32 (asel : OpASel) (s : State) : Outcome State Fault Refusal :=
  performValue asel s fun a => add32 a s.ports.b

/-- SUB32 (43_support.md R83). The wrapping difference. -/
def sub32 (a b : Word) : Word :=
  wrap32 (s32 a - s32 b)

/-- SUB32 (43_support.md R83). -/
def execSub32 (asel : OpASel) (s : State) : Outcome State Fault Refusal :=
  performValue asel s fun a => sub32 a s.ports.b

/-- NEG32 (43_support.md R84). The wrapping negation; `INT32_MIN` is its own. -/
def neg32 (a : Word) : Word :=
  wrap32 (-s32 a)

/-- NEG32 (43_support.md R84). -/
def execNeg32 (asel : OpASel) (s : State) : Outcome State Fault Refusal :=
  performValue asel s fun a => neg32 a

/-- ABS32 (43_support.md R85). The wrapping absolute value; that of `INT32_MIN` is `INT32_MIN`. -/
def abs32 (a : Word) : Word :=
  if 0 < s32 a then a else wrap32 (-s32 a)

/-- ABS32 (43_support.md R85). -/
def execAbs32 (asel : OpASel) (s : State) : Outcome State Fault Refusal :=
  performValue asel s fun a => abs32 a

/-- MAX32 (43_support.md R86). The signed maximum. -/
def max32 (a b : Word) : Word :=
  if s32 b < s32 a then a else b

/-- MAX32 (43_support.md R86). -/
def execMax32 (asel : OpASel) (s : State) : Outcome State Fault Refusal :=
  performValue asel s fun a => max32 a s.ports.b

/-- MIN32 (43_support.md R87). The signed minimum. -/
def min32 (a b : Word) : Word :=
  if s32 a < s32 b then a else b

/-- MIN32 (43_support.md R87). -/
def execMin32 (asel : OpASel) (s : State) : Outcome State Fault Refusal :=
  performValue asel s fun a => min32 a s.ports.b

/-- DIV32 (43_support.md R88): the quotient rounding toward zero, wrapped; a zero divisor faults. -/
def div32 (a b : Word) : Executed :=
  if s32 b = 0 then .fault .divZero else .value (wrap32 (tdiv (s32 a) (s32 b)))

/-- DIV32 (43_support.md R88). `DIV_ZERO` comes after every other check (60_exceptions.md R97). -/
def execDiv32 (asel : OpASel) (s : State) : Outcome State Fault Refusal :=
  perform asel s fun a => div32 a s.ports.b

/-- AND32 (43_support.md R89). The bitwise and. -/
def and32 (a b : Word) : Word :=
  a &&& b

/-- AND32 (43_support.md R89). -/
def execAnd32 (asel : OpASel) (s : State) : Outcome State Fault Refusal :=
  performValue asel s fun a => and32 a s.ports.b

/-- OR32 (43_support.md R90). The bitwise or. -/
def or32 (a b : Word) : Word :=
  a ||| b

/-- OR32 (43_support.md R90). -/
def execOr32 (asel : OpASel) (s : State) : Outcome State Fault Refusal :=
  performValue asel s fun a => or32 a s.ports.b

/-- XOR32 (43_support.md R91). The bitwise exclusive or. -/
def xor32 (a b : Word) : Word :=
  a ^^^ b

/-- XOR32 (43_support.md R91). -/
def execXor32 (asel : OpASel) (s : State) : Outcome State Fault Refusal :=
  performValue asel s fun a => xor32 a s.ports.b

/-- CLZ32 (43_support.md R92): the number of leading zero bits, 0 to 32, zero-extended. -/
def clz32 (a : Word) : Word :=
  match topBit a 32 with
  | none => 32#32
  | some i => wrap32 (31 - i)

/-- CLZ32 (43_support.md R92). -/
def execClz32 (asel : OpASel) (s : State) : Outcome State Fault Refusal :=
  performValue asel s fun a => clz32 a

/-- RAND (43_support.md R93). One step of the linear congruential generator. -/
def rand (a : Word) : Word :=
  wrap32 (907633515 + s32 a * 196314165)

/-- RAND (43_support.md R93). -/
def execRand (asel : OpASel) (s : State) : Outcome State Fault Refusal :=
  performValue asel s fun a => rand a

end Sys2Proof.Machine
end

