-- ==== Sys2Proof/Machine/Dispatch.lean ====
section
/-! DEFINITION. One arm per constructor of Instr (10_state.md R23 `execute`): a direct call of the instruction's meaning. -/

namespace Sys2Proof.Machine

def exec (i : Instr) (s : State) : Host.Outcome State Fault Refusal :=
  match i with
  | .mov asel => Sys2Proof.Machine.execMov asel s
  | .add32 asel => Sys2Proof.Machine.execAdd32 asel s
  | .sub32 asel => Sys2Proof.Machine.execSub32 asel s
  | .neg32 asel => Sys2Proof.Machine.execNeg32 asel s
  | .abs32 asel => Sys2Proof.Machine.execAbs32 asel s
  | .max32 asel => Sys2Proof.Machine.execMax32 asel s
  | .min32 asel => Sys2Proof.Machine.execMin32 asel s
  | .div32 asel => Sys2Proof.Machine.execDiv32 asel s
  | .and32 asel => Sys2Proof.Machine.execAnd32 asel s
  | .or32 asel => Sys2Proof.Machine.execOr32 asel s
  | .xor32 asel => Sys2Proof.Machine.execXor32 asel s
  | .clz32 asel => Sys2Proof.Machine.execClz32 asel s
  | .rand asel => Sys2Proof.Machine.execRand asel s
  | .addSat32 asel => Sys2Proof.Machine.execAddSat32 asel s
  | .subSat32 asel => Sys2Proof.Machine.execSubSat32 asel s
  | .addPosSat32 asel => Sys2Proof.Machine.execAddPosSat32 asel s
  | .addSat16 asel => Sys2Proof.Machine.execAddSat16 asel s
  | .subSat16 asel => Sys2Proof.Machine.execSubSat16 asel s
  | .sat16 asel => Sys2Proof.Machine.execSat16 asel s
  | .limit32 asel => Sys2Proof.Machine.execLimit32 asel s
  | .lshiftSat32 asel sh => Sys2Proof.Machine.execLshiftSat32 asel sh s
  | .rshiftRound asel sh => Sys2Proof.Machine.execRshiftRound asel sh s
  | .lshift32 asel sh => Sys2Proof.Machine.execLshift32 asel sh s
  | .rshift32 asel sh => Sys2Proof.Machine.execRshift32 asel sh s
  | .rshiftUint32 asel sh => Sys2Proof.Machine.execRshiftUint32 asel sh s
  | .addLshift32 asel sh => Sys2Proof.Machine.execAddLshift32 asel sh s
  | .addRshift32 asel sh => Sys2Proof.Machine.execAddRshift32 asel sh s
  | .subLshift32 asel sh => Sys2Proof.Machine.execSubLshift32 asel sh s
  | .subRshift32 asel sh => Sys2Proof.Machine.execSubRshift32 asel sh s
  | .smulbb asel => Sys2Proof.Machine.execSmulbb asel s
  | .smlabb asel => Sys2Proof.Machine.execSmlabb asel s
  | .smulbt asel => Sys2Proof.Machine.execSmulbt asel s
  | .smlabt asel => Sys2Proof.Machine.execSmlabt asel s
  | .smulwb asel => Sys2Proof.Machine.execSmulwb asel s
  | .smlawb asel => Sys2Proof.Machine.execSmlawb asel s
  | .smulwt asel => Sys2Proof.Machine.execSmulwt asel s
  | .smlawt asel => Sys2Proof.Machine.execSmlawt asel s
  | .smulww asel => Sys2Proof.Machine.execSmulww asel s
  | .smlaww asel => Sys2Proof.Machine.execSmlaww asel s
  | .mul32 asel => Sys2Proof.Machine.execMul32 asel s
  | .mla32 asel => Sys2Proof.Machine.execMla32 asel s

end Sys2Proof.Machine
end

