-- ==== Sys2Proof/Machine/Step.lean ====
section
/-! DEFINITION. One step of the machine, and the state whose next step runs a given instruction. -/

namespace Sys2Proof.Machine

/-- One step: the host's next action, a command being given its meaning by `exec` (10_state.md R23; 20_memory.md R31). -/
def step (s : State) : Host.Outcome State Fault Refusal := advance exec s

/-- `s` with the command word of low bits `w` presented next, its operand words those on the ports. The host of the hardware
presents every command (10_state.md R18; log entry 3). -/
def State.withFetchWord (s : State) (nbits w : Nat) : State :=
  placeCommand ⟨BitVec.ofNat 32 (w % 2 ^ nbits), s.ports⟩ s

end Sys2Proof.Machine
end

