-- ==== Sys2Proof/Machine/Assembler.lean ====
section
/-! DEFINITION. The assembler of 30_encoding.md R44 and R45: from one line of text to one command, or nothing where the line
is none of the syntax. What R44 leaves open (spaces, a plus sign, a decimal outside the 32-bit range) is log entry 11. -/

namespace Sys2Proof.Machine

/-- An operand of an assembly line (30_encoding.md R44). -/
inductive AsmOperand where
  /-- `R`, as first operand: sets `ASEL` = 1. -/
  | regR
  /-- `#value`: the word to drive on a port. -/
  | val (v : Word)
  /-- `sh=N`: the `SH` field. -/
  | sh (n : Shift)
  deriving DecidableEq, Repr

/-- An assembly line: the mnemonic and the operands in order. -/
structure AsmLine where
  /-- The mnemonic or pseudo-mnemonic. -/
  name : List Char
  /-- The operands, in the order written. -/
  operands : List AsmOperand
  deriving DecidableEq, Repr

/-! ## Mnemonics -/

/-- The mnemonic of an instruction (30_encoding.md R40). -/
def mnemonic : Instr → String
  | .mov _ => "MOV"
  | .add32 _ => "ADD32"
  | .sub32 _ => "SUB32"
  | .neg32 _ => "NEG32"
  | .abs32 _ => "ABS32"
  | .max32 _ => "MAX32"
  | .min32 _ => "MIN32"
  | .div32 _ => "DIV32"
  | .and32 _ => "AND32"
  | .or32 _ => "OR32"
  | .xor32 _ => "XOR32"
  | .clz32 _ => "CLZ32"
  | .rand _ => "RAND"
  | .addSat32 _ => "ADD_SAT32"
  | .subSat32 _ => "SUB_SAT32"
  | .addPosSat32 _ => "ADD_POS_SAT32"
  | .addSat16 _ => "ADD_SAT16"
  | .subSat16 _ => "SUB_SAT16"
  | .sat16 _ => "SAT16"
  | .limit32 _ => "LIMIT32"
  | .lshiftSat32 _ _ => "LSHIFT_SAT32"
  | .rshiftRound _ _ => "RSHIFT_ROUND"
  | .lshift32 _ _ => "LSHIFT32"
  | .rshift32 _ _ => "RSHIFT32"
  | .rshiftUint32 _ _ => "RSHIFT_UINT32"
  | .addLshift32 _ _ => "ADD_LSHIFT32"
  | .addRshift32 _ _ => "ADD_RSHIFT32"
  | .subLshift32 _ _ => "SUB_LSHIFT32"
  | .subRshift32 _ _ => "SUB_RSHIFT32"
  | .smulbb _ => "SMULBB"
  | .smlabb _ => "SMLABB"
  | .smulbt _ => "SMULBT"
  | .smlabt _ => "SMLABT"
  | .smulwb _ => "SMULWB"
  | .smlawb _ => "SMLAWB"
  | .smulwt _ => "SMULWT"
  | .smlawt _ => "SMLAWT"
  | .smulww _ => "SMULWW"
  | .smlaww _ => "SMLAWW"
  | .mul32 _ => "MUL32"
  | .mla32 _ => "MLA32"

/-- The operations of 43_support.md, as functions of their fields. -/
def supportTable : List (OpASel → Shift → Instr) :=
  [
    fun asel _ => .mov asel,
    fun asel _ => .add32 asel,
    fun asel _ => .sub32 asel,
    fun asel _ => .neg32 asel,
    fun asel _ => .abs32 asel,
    fun asel _ => .max32 asel,
    fun asel _ => .min32 asel,
    fun asel _ => .div32 asel,
    fun asel _ => .and32 asel,
    fun asel _ => .or32 asel,
    fun asel _ => .xor32 asel,
    fun asel _ => .clz32 asel,
    fun asel _ => .rand asel
  ]

/-- The operations of 40_saturating.md, as functions of their fields. -/
def saturatingTable : List (OpASel → Shift → Instr) :=
  [
    fun asel _ => .addSat32 asel,
    fun asel _ => .subSat32 asel,
    fun asel _ => .addPosSat32 asel,
    fun asel _ => .addSat16 asel,
    fun asel _ => .subSat16 asel,
    fun asel _ => .sat16 asel,
    fun asel _ => .limit32 asel,
    fun asel sh => .lshiftSat32 asel sh
  ]

/-- The operations of 41_shift_round.md, as functions of their fields. -/
def shiftRoundTable : List (OpASel → Shift → Instr) :=
  [
    fun asel sh => .rshiftRound asel sh,
    fun asel sh => .lshift32 asel sh,
    fun asel sh => .rshift32 asel sh,
    fun asel sh => .rshiftUint32 asel sh,
    fun asel sh => .addLshift32 asel sh,
    fun asel sh => .addRshift32 asel sh,
    fun asel sh => .subLshift32 asel sh,
    fun asel sh => .subRshift32 asel sh
  ]

/-- The operations of 42_mac.md, as functions of their fields. -/
def macTable : List (OpASel → Shift → Instr) :=
  [
    fun asel _ => .smulbb asel,
    fun asel _ => .smlabb asel,
    fun asel _ => .smulbt asel,
    fun asel _ => .smlabt asel,
    fun asel _ => .smulwb asel,
    fun asel _ => .smlawb asel,
    fun asel _ => .smulwt asel,
    fun asel _ => .smlawt asel,
    fun asel _ => .smulww asel,
    fun asel _ => .smlaww asel,
    fun asel _ => .mul32 asel,
    fun asel _ => .mla32 asel
  ]

/-- Every operation of 30_encoding.md R40. -/
def operations : List (OpASel → Shift → Instr) := supportTable ++ saturatingTable ++ shiftRoundTable ++ macTable

/-- The operation a mnemonic names. -/
def operationNamed (name : List Char) : Option (OpASel → Shift → Instr) :=
  operations.find? fun mk => (mnemonic (mk .portA 0#5)).toList == name

/-! ## Pseudo-instructions -/

/-- The expansion of a pseudo-instruction (30_encoding.md R45), each exactly one line; the two `SKP_` spellings; any other
line is itself. A pseudo-mnemonic with other operands than R45 gives it names no operation. -/
def expand (l : AsmLine) : AsmLine :=
  if l.name = "LDR".toList then
    match l.operands with
    | [.val v] => ⟨"MOV".toList, [.val v]⟩
    | _ => l
  else if l.name = "CLR".toList then
    match l.operands with
    | [] => ⟨"MOV".toList, [.val 0#32]⟩
    | _ => l
  else if l.name = "NOT".toList then
    match l.operands with
    | [a] => ⟨"XOR32".toList, [a, .val 0xFFFFFFFF#32]⟩
    | _ => l
  else if l.name = "CLAMP".toList then ⟨"LIMIT32".toList, l.operands⟩
  else if l.name = "CLAMP16".toList then ⟨"SAT16".toList, l.operands⟩
  else if l.name = "SKP_ADD_SAT32".toList then ⟨"ADD_SAT32".toList, l.operands⟩
  else if l.name = "SKP_SAT16".toList then ⟨"SAT16".toList, l.operands⟩
  else l

/-! ## From a line to a command -/

/-- The first operand: the selector and the word on port `A` (0 where it is ignored; 30_encoding.md R44). -/
def firstOperand : AsmOperand → Option (OpASel × Word)
  | .regR => some (.regR, 0#32)
  | .val v => some (.portA, v)
  | .sh _ => none

/-- The next operand, where the operation reads that port: a value; the port is driven with 0 where it does not
(30_encoding.md R44). -/
def portOperand (reads : Bool) (ops : List AsmOperand) : Option (Word × List AsmOperand) :=
  if reads then
    match ops with
    | .val v :: rest => some (v, rest)
    | _ => none
  else some (0#32, ops)

/-- The shift amount, present in CMD-S operations and nowhere else (30_encoding.md R44). -/
def shiftOperand (f : Format) (ops : List AsmOperand) : Option Shift :=
  match f, ops with
  | .cmdN, [] => some 0#5
  | .cmdS, [.sh n] => some n
  | _, _ => none

/-- The command of an operation with exactly the operands it reads, in the order `a`, `B`, `C`, `sh` (30_encoding.md R44). -/
def commandOf (mk : OpASel → Shift → Instr) (ops : List AsmOperand) : Option Command :=
  let i := mk .portA 0#5
  match ops with
  | [] => none
  | a :: rest =>
    (firstOperand a).bind fun (asel, va) =>
    (portOperand i.readsB rest).bind fun (vb, rest) =>
    (portOperand i.readsC rest).bind fun (vc, rest) =>
    (shiftOperand i.format rest).map fun sh => ⟨encode (mk asel sh), ⟨va, vb, vc⟩⟩

/-- The command of a line, its pseudo-instruction expanded. -/
def assembleLine (l : AsmLine) : Option Command :=
  (operationNamed (expand l).name).bind fun mk => commandOf mk (expand l).operands

/-! ## From text to a line -/

/-- The value of a digit character below `base`. -/
def digit (base : Nat) (c : Char) : Option Nat :=
  let v :=
    if '0' ≤ c ∧ c ≤ '9' then some (c.toNat - 48)
    else if 'a' ≤ c ∧ c ≤ 'f' then some (c.toNat - 87)
    else if 'A' ≤ c ∧ c ≤ 'F' then some (c.toNat - 55)
    else none
  v.filter (· < base)

/-- The number a sequence of digits writes after `acc`. -/
def digitsFrom (base : Nat) (acc : Nat) : List Char → Option Nat
  | [] => some acc
  | c :: cs => (digit base c).bind fun d => digitsFrom base (acc * base + d) cs

/-- The number a sequence of at least one digit writes. -/
def digits (base : Nat) (cs : List Char) : Option Nat := if cs = [] then none else digitsFrom base 0 cs

/-- `value` (30_encoding.md R44): `0x` and up to 8 hex digits, the 32-bit pattern; or a signed decimal. -/
def asmValue : List Char → Option Word
  | '0' :: 'x' :: ds => if ds.length ≤ 8 then (digits 16 ds).map (BitVec.ofNat 32) else none
  | '-' :: ds => ((digits 10 ds).filter (· ≤ 2147483648)).map fun n => BitVec.ofInt 32 (-n)
  | ds => ((digits 10 ds).filter (· ≤ 2147483647)).map (BitVec.ofNat 32)

/-- One operand (30_encoding.md R44). -/
def asmOperand : List Char → Option AsmOperand
  | ['R'] => some .regR
  | '#' :: v => (asmValue v).map .val
  | 's' :: 'h' :: '=' :: n => ((digits 10 n).filter (· ≤ 31)).map fun k => .sh (BitVec.ofNat 5 k)
  | _ => none

/-- A list cut at every `sep`. -/
def splitAt (sep : Char) : List Char → List (List Char)
  | [] => [[]]
  | c :: cs =>
    match splitAt sep cs with
    | [] => [[c]]
    | p :: ps => if c = sep then [] :: p :: ps else (c :: p) :: ps

/-- Characters without the spaces before and after them. -/
def trim (cs : List Char) : List Char :=
  ((cs.dropWhile (· == ' ')).reverse.dropWhile (· == ' ')).reverse

/-- A line of text: the mnemonic, then the operands between commas (30_encoding.md R44). -/
def asmLine (cs : List Char) : Option AsmLine :=
  let cs := trim cs
  let name := cs.takeWhile (· != ' ')
  let rest := trim (cs.dropWhile (· != ' '))
  if rest = [] then some ⟨name, []⟩
  else (((splitAt ',' rest).map trim).mapM asmOperand).map fun ops => ⟨name, ops⟩

/-- The assembler: one line of text to one command (30_encoding.md R44, R45). -/
def assemble (text : List Char) : Option Command := (asmLine text).bind assembleLine

end Sys2Proof.Machine
end

