-- ==== Sys2Proof/Machine/System.lean ====
section
/-! DEFINITION. Several instances of the unit (60_exceptions.md R108). Each has its own state; they share none and cannot
signal each other. `n` is the spec's `N_INST` (00_scope.md R5). -/

namespace Sys2Proof.Machine

open Host (Outcome)

/-- `n` instances of the unit. DESIGN CHOICE (unsafe; log entry 14): the instances share the draws of `Config.rReset`, so two of
them that have been reset equally often hold the same unwritten `R`. -/
abbrev System (n : Nat) := Vector State n

/-- One step of instance `k` of a system: its own step, and every other instance as it was. -/
def systemStep {n : Nat} (k : Fin n) (sys : System n) : Outcome (System n) Fault Refusal :=
  match step sys[k] with
  | .next t => .next (sys.set k t)
  | .fault f => .fault f
  | .refused r => .refused r

end Sys2Proof.Machine
end

