-- ==== Sys2Proof/Safety.lean ====
section
/-! DEFINITION. The terms claims are made in: what a good run is, the invariant of the status state, the Q-format reading of
a word, and the parts that every operation's rule has in common. -/

namespace Sys2Proof

open Sys2Proof.Machine

/-- A run is good if it ends fault-free: "A claim about a command sequence therefore states `FLT` = 0 at its end"
(70_reset_and_hazards.md R120). -/
def FaultFree (s : State) : Prop := s.flt = false

/-- The status state is consistent: `FLT` = 0 exactly where `CAUSE` = 0 (10_state.md R17), no code above 5 (R16), and an
unwritten `R` still holds what the last reset left there (10_state.md R13, R14). -/
def StatusConsistent (s : State) : Prop :=
  (s.flt = false ↔ s.cause = 0#4) ∧ s.cause.toNat ≤ 5 ∧ (s.rv = false → s.r = Config.rReset s.resets)

/-- The host action asserts reset (70_reset_and_hazards.md R111, R112). -/
def assertsReset : HostAction → Bool
  | .issue _ => false
  | .reset => true
  | .resetDuring _ => true
  | .readR => false
  | .readStatus => false

/-- A word read as Qn (00_scope.md R10): its two's-complement value over 2^n. -/
def qValue (n : Nat) (x : Word) : ℚ := x.toInt / 2 ^ n

/-- The values of `OP` that select no operation (30_encoding.md R40, R42): 0x00, 0x0E, 0x0F and 0x2C to 0x3F. -/
def Unassigned (op : BitVec 6) : Prop := op.toNat = 0 ∨ op.toNat = 14 ∨ op.toNat = 15 ∨ 44 ≤ op.toNat

/-- The `OP` values of format CMD-S, LSHIFT_SAT32 to SUB_RSHIFT32 (30_encoding.md R37, R40). -/
def ReadsShift (op : BitVec 6) : Prop := 23 ≤ op.toNat ∧ op.toNat ≤ 31

/-- Bit 7 or a bit of 31:13 is set (30_encoding.md R36). -/
def ReservedSet (w : Word) : Prop := w &&& 0xFFFFE080#32 ≠ 0#32

/-- The unit performs a command with this selector, its operation permitting: no fault is recorded, and `R` has been written
if it is read (10_state.md R23). -/
def Accepts (asel : OpASel) (s : State) : Prop := s.flt = false ∧ (asel = .regR → s.rv = true)

/-- A command word with this `OP` is a CMD-N word (30_encoding.md R37): it decodes to the operation where its fixed bits
match, whatever its `ASEL`, and faults with `RESERVED_FIELD` otherwise. -/
def EncodedN (op : BitVec 6) (i : OpASel → Instr) : Prop :=
  ∀ w : Word, w.extractLsb' 0 6 = op →
    decode w =
      if w &&& 0xFFFFFFBF#32 = op.setWidth 32 then .ok (i (if w.getLsbD 6 then .regR else .portA))
      else .fault .reservedField

/-- The same of a CMD-S word, whose bits 12:8 are the shift amount (30_encoding.md R37, R38). -/
def EncodedS (op : BitVec 6) (i : OpASel → Shift → Instr) : Prop :=
  ∀ w : Word, w.extractLsb' 0 6 = op →
    decode w =
      if w &&& 0xFFFFE0BF#32 = op.setWidth 32 then
        .ok (i (if w.getLsbD 6 then .regR else .portA) (w.extractLsb' 8 5))
      else .fault .reservedField

/-- The common exceptions (40_saturating.md R46), beside those of decoding: `ASEL` = 1 while `RV` = 0 takes `R_UNWRITTEN` and
changes nothing else; and a faulted unit ignores the command (60_exceptions.md R99). -/
def CommonExceptions (i : OpASel → Instr) : Prop :=
  (∀ s : State, s.flt = false → s.rv = false → exec (i .regR) s = .next { s with flt := true, cause := 5#4 }) ∧
  (∀ (asel : OpASel) (s : State), s.flt = true → exec (i asel) s = .next s)

/-- An accepted command is performed: the value `v` of its first operand (`R` if `ASEL` = 1, port `A` otherwise;
30_encoding.md R39) and of ports `B` and `C` is written to `R`, `RV` becomes 1, and nothing else changes (10_state.md R13). -/
def WritesResult (i : OpASel → Instr) (v : Word → Word → Word → Word) : Prop :=
  ∀ (asel : OpASel) (s : State), Accepts asel s →
    exec (i asel) s =
      .next { s with
        r := v (match asel with | .portA => s.ports.a | .regR => s.r) s.ports.b s.ports.c
        rv := true }

/-- The rule of a CMD-N operation that faults on no operand value: its encoding, its exceptions and its result. -/
def RuleN (op : BitVec 6) (i : OpASel → Instr) (v : Word → Word → Word → Word) : Prop :=
  EncodedN op i ∧ CommonExceptions i ∧ WritesResult i v

/-- The rule of a CMD-S operation legal at every shift amount, which is the last argument of `v`. -/
def RuleS (op : BitVec 6) (i : OpASel → Shift → Instr) (v : Word → Word → Word → Nat → Word) : Prop :=
  EncodedS op i ∧
  ∀ sh : Shift, CommonExceptions (fun asel => i asel sh) ∧ WritesResult (fun asel => i asel sh) fun a b c => v a b c sh.toNat

/-- The bottom halfword of a word as a signed number (00_scope.md R8). -/
def bottom (x : Word) : Int := (x.setWidth 16).toInt

/-- The top halfword of a word as a signed number: `floor (s32 x / 2^16)` (00_scope.md R8). -/
def top (x : Word) : Int := ⌊(x.toInt : ℚ) / 2 ^ 16⌋

end Sys2Proof
end

