-- ==== Sys2Proof/Certificates/Slice0/Obligations.lean ====
section
/-! DEFINITION. The statements for the provers. Terms: Sys2Proof/Safety.lean. -/

open Sys2Proof Sys2Proof.Machine

/-! ## Decoding and encoding -/

/-- 30_encoding.md R41: the order of the decoder's checks, on every word. -/
def Obligations.DecodeChecksInOrder : Prop :=
  ∀ w : Word,
    (Unassigned (w.extractLsb' 0 6) → decode w = .fault .illegalOp) ∧
    (¬ Unassigned (w.extractLsb' 0 6) →
      (ReservedSet w → decode w = .fault .reservedField) ∧
      (¬ ReservedSet w →
        (¬ ReadsShift (w.extractLsb' 0 6) ∧ w.extractLsb' 8 5 ≠ 0#5 → decode w = .fault .reservedField) ∧
        (w.extractLsb' 0 6 = 0x18#6 ∧ w.extractLsb' 8 5 = 0#5 → decode w = .fault .badShift) ∧
        (¬ (¬ ReadsShift (w.extractLsb' 0 6) ∧ w.extractLsb' 8 5 ≠ 0#5) →
          ¬ (w.extractLsb' 0 6 = 0x18#6 ∧ w.extractLsb' 8 5 = 0#5) →
          ∃ i : Instr, decode w = .ok i ∧ i.opcode = w.extractLsb' 0 6 ∧
            i.asel = (if w.getLsbD 6 then OpASel.regR else OpASel.portA) ∧ i.sh = w.extractLsb' 8 5)))

/-- The encoder's word of every well-formed instruction, at every value of its fields, decodes to that instruction
(30_encoding.md sections 1 to 3). -/
def Obligations.EncodedInstructionsDecodeBack : Prop :=
  ∀ i : Instr, i.wellFormed = true → decode (encode i) = .ok i

/-- A word that decodes has one meaning, and that instruction's word is it: no two words decode alike and no bit of a word is
left unread (30_encoding.md section 4). -/
def Obligations.DecodedWordsEncodeBack : Prop :=
  ∀ (w : Word) (i : Instr), decode w = .ok i → encode i = w ∧ i.wellFormed = true

/-- Words of the assembly examples (95_test_vectors.md V201 to V208) decode to the instructions they are written for. -/
def Obligations.AssembledExampleWordsDecode : Prop :=
  decode 0x00000065#32 = .ok (.smlawb .regR) ∧ decode 0x00000D58#32 = .ok (.rshiftRound .regR 13#5) ∧
  decode 0x00000010#32 = .ok (.addSat32 .portA) ∧ decode 0x00001017#32 = .ok (.lshiftSat32 .portA 16#5) ∧
  decode 0x0000045F#32 = .ok (.subRshift32 .regR 4#5) ∧ decode 0x00000056#32 = .ok (.limit32 .regR) ∧
  decode 0x0000002B#32 = .ok (.mla32 .portA) ∧ decode 0x0000004C#32 = .ok (.clz32 .regR)

/-- 30_encoding.md R42: the illegal and reserved words fault with causes 1, 2 and 3, and are not performed. -/
def Obligations.IllegalWordsFaultAndAreNotPerformed : Prop :=
  ∀ (s : State) (w : Word) (p : Ports) (rest : List HostAction), s.flt = false → s.pending = .issue ⟨w, p⟩ :: rest →
    (Unassigned (w.extractLsb' 0 6) →
      step s = .next { s with pending := rest, ports := p, flt := true, cause := 1#4 }) ∧
    (¬ Unassigned (w.extractLsb' 0 6) →
      ReservedSet w ∨ (¬ ReadsShift (w.extractLsb' 0 6) ∧ w.extractLsb' 8 5 ≠ 0#5) →
      step s = .next { s with pending := rest, ports := p, flt := true, cause := 2#4 }) ∧
    (w.extractLsb' 0 6 = 0x18#6 → ¬ ReservedSet w → w.extractLsb' 8 5 = 0#5 →
      step s = .next { s with pending := rest, ports := p, flt := true, cause := 3#4 }) ∧
    (w = 0#32 → step s = .next { s with pending := rest, ports := p, flt := true, cause := 1#4 })

/-! ## The step -/

/-- A step whose pending command decodes to `i` is `exec` of `i` on the state with the command taken off the list and its
operand words sampled (10_state.md section 8, the step function; 20_memory.md section 4). -/
def Obligations.StepRunsTheDecodedInstruction : Prop :=
  ∀ (s : State) (c : Command) (rest : List HostAction) (i : Instr),
    s.flt = false → s.pending = .issue c :: rest → decode c.word = .ok i →
      step s = exec i { s with pending := rest, ports := c.ports }

/-- Every step of every state answers a next state, and so does every run: "every command completes, including one that
faults and one that is ignored" (70_reset_and_hazards.md section 3; 10_state.md section 8: the step is total). -/
def Obligations.EveryRunCompletes : Prop :=
  ∀ (k : Nat) (s : State), ∃ t : State, Host.Core.run core k s = .next t

/-- A command is performed whole, faults, or is ignored, and no fourth thing (60_exceptions.md section 1; 20_memory.md
section 4). -/
def Obligations.CommandIsPerformedFaultedOrIgnored : Prop :=
  ∀ (s : State) (c : Command) (rest : List HostAction), s.pending = .issue c :: rest →
    (s.flt = true ∧ step s = .next { s with pending := rest }) ∨
    (s.flt = false ∧ ∃ e : Cause,
      step s = .next { s with pending := rest, ports := c.ports, flt := true, cause := e.code }) ∨
    (s.flt = false ∧ ∃ v : Word,
      step s = .next { s with pending := rest, ports := c.ports, r := v, rv := true })

/-- 60_exceptions.md R98: a command that sets `FLT` writes `CAUSE` with a code of R95 and nothing else. -/
def Obligations.FaultEntryWritesOnlyFltAndCause : Prop :=
  ∀ (s t : State) (c : Command) (rest : List HostAction), s.flt = false → s.pending = .issue c :: rest →
    step s = .next t → t.flt = true →
      ∃ e : Cause, t = { s with pending := rest, ports := c.ports, flt := true, cause := e.code }

/-- 60_exceptions.md R99: a faulted unit ignores every command, and the host may still read `R` and `STATUS`. -/
def Obligations.FaultedUnitIgnoresCommands : Prop :=
  ∀ (s : State) (rest : List HostAction), s.flt = true →
    (∀ c : Command, s.pending = .issue c :: rest → step s = .next { s with pending := rest }) ∧
    (s.pending = .readR :: rest → ∃ v : Word,
      step s = .next { s with pending := rest, reads := s.reads ++ [.r v] } ∧ (s.rv = true → v = s.r)) ∧
    (s.pending = .readStatus :: rest →
      step s = .next { s with pending := rest, reads := s.reads ++ [.status (status s)] })

/-- 60_exceptions.md R97: which cause a command reports when several apply, and that one with none of them does not fault.
Causes in the rule's order; `c.ports.b` is the divisor. An ignored command is checked for nothing. -/
def Obligations.FaultPriority : Prop :=
  ∀ (s : State) (c : Command) (rest : List HostAction), s.pending = .issue c :: rest →
    ∃ t : State, step s = .next t ∧
      (s.flt = true → t = { s with pending := rest }) ∧
      (s.flt = false →
        (Unassigned (c.word.extractLsb' 0 6) → t.flt = true ∧ t.cause = 1#4) ∧
        (¬ Unassigned (c.word.extractLsb' 0 6) →
          (ReservedSet c.word → t.flt = true ∧ t.cause = 2#4) ∧
          (¬ ReservedSet c.word →
            (¬ ReadsShift (c.word.extractLsb' 0 6) ∧ c.word.extractLsb' 8 5 ≠ 0#5 →
              t.flt = true ∧ t.cause = 2#4) ∧
            (c.word.extractLsb' 0 6 = 0x18#6 ∧ c.word.extractLsb' 8 5 = 0#5 → t.flt = true ∧ t.cause = 3#4) ∧
            (¬ (¬ ReadsShift (c.word.extractLsb' 0 6) ∧ c.word.extractLsb' 8 5 ≠ 0#5) →
              ¬ (c.word.extractLsb' 0 6 = 0x18#6 ∧ c.word.extractLsb' 8 5 = 0#5) →
              (c.word.getLsbD 6 = true ∧ s.rv = false → t.flt = true ∧ t.cause = 5#4) ∧
              (¬ (c.word.getLsbD 6 = true ∧ s.rv = false) →
                (c.word.extractLsb' 0 6 = 0x08#6 ∧ c.ports.b = 0#32 → t.flt = true ∧ t.cause = 4#4) ∧
                (¬ (c.word.extractLsb' 0 6 = 0x08#6 ∧ c.ports.b = 0#32) →
                  t.flt = false ∧ t.cause = s.cause ∧ t.rv = true))))))

/-- Which operations fault, and with which causes, once their word has decoded (60_exceptions.md section 2, the sentence
marked [derived]): `R_UNWRITTEN` for each, `DIV_ZERO` for DIV32, nothing else. -/
def Obligations.OperationsFaultOnlyForTheirCauses : Prop :=
  ∀ (i : Instr) (s t : State), i.wellFormed = true → s.flt = false → exec i s = .next t → t.flt = true →
    (i.asel = .regR ∧ s.rv = false ∧ t = { s with flt := true, cause := 5#4 }) ∨
    ((∃ asel : OpASel, i = .div32 asel) ∧ s.ports.b = 0#32 ∧ t = { s with flt := true, cause := 4#4 })

/-! ## Invariants -/

/-- Every step keeps the status state consistent (10_state.md sections 2 and 3). The third part of `StatusConsistent`, what
an unwritten `R` holds, names the model's free value (log entry 1). -/
def Obligations.StepKeepsStatusConsistent : Prop :=
  ∀ s t : State, StatusConsistent s → step s = .next t → StatusConsistent t

/-- The status state is consistent after reset (10_state.md section 8; its third part is log entry 1). -/
def Obligations.ResetStatusConsistent : Prop := StatusConsistent State.reset

/-- Over any number of steps in which the host asserts no reset, a faulted unit keeps `R`, `RV`, `FLT` and `CAUSE`: the fault
is sticky, `CAUSE` holds the first one's code, and only reset clears it (10_state.md section 3; 60_exceptions.md sections 4
and 5). -/
def Obligations.FaultStaysUntilReset : Prop :=
  ∀ (k : Nat) (s : State), s.flt = true → (∀ h ∈ s.pending.take k, assertsReset h = false) →
    ∃ t : State, Host.Core.run core k s = .next t ∧
      t.r = s.r ∧ t.rv = s.rv ∧ t.flt = true ∧ t.cause = s.cause

/-- 10_state.md R14: `RV` is 0 after reset, 1 after every performed command (one issued and left with `FLT` = 0), which alone
raises it, and back to 0 only by reset; a command with `ASEL` = 1 while `RV` = 0 faults with `R_UNWRITTEN`. -/
def Obligations.RvIsClearedOnlyByReset : Prop :=
  State.reset.rv = false ∧
  (∀ (s t : State) (h : HostAction) (rest : List HostAction), s.pending = h :: rest → step s = .next t →
    (assertsReset h = true → t.rv = false) ∧
    (assertsReset h = false → s.rv = true → t.rv = true) ∧
    (∀ c : Command, h = .issue c → s.flt = false → t.flt = false → t.rv = true) ∧
    (s.rv = false → t.rv = true → s.flt = false ∧ t.flt = false ∧ ∃ c : Command, h = .issue c)) ∧
  (∀ s : State, s.pending = [] → step s = .next s) ∧
  (∀ (i : Instr) (s : State), i.wellFormed = true → i.asel = .regR → s.flt = false → s.rv = false →
    exec i s = .next { s with flt := true, cause := 5#4 })

/-- A step that changes `R` is a reset or a command performed without a fault (10_state.md section 2). -/
def Obligations.RChangesOnlyByAPerformedCommand : Prop :=
  ∀ (s t : State) (h : HostAction) (rest : List HostAction), s.pending = h :: rest → assertsReset h = false →
    step s = .next t → t.r ≠ s.r → (∃ c : Command, h = .issue c) ∧ s.flt = false ∧ t.flt = false ∧ t.rv = true

/-! ## Reset, status and reads -/

/-- 70_reset_and_hazards.md R111 and R112: reset, which is also the state at power-up, sets `RV`, `FLT` and `CAUSE` to 0, leaves
`R` unspecified and takes no command; a reset during a command has that same effect, whatever the command; nothing else clears
`FLT` or `RV`. The number `resets` is the model's (log entry 1). -/
def Obligations.ResetClearsTheStatusState : Prop :=
  (State.reset.rv = false ∧ State.reset.flt = false ∧ State.reset.cause = 0#4 ∧ status State.reset = 0#32) ∧
  (∀ (s : State) (h : HostAction) (rest : List HostAction),
    h = .reset ∨ (∃ c : Command, h = .resetDuring c) → s.pending = h :: rest →
    ∃ t : State, step s = .next t ∧ status t = 0#32 ∧
      t = { s with pending := rest, r := t.r, rv := false, flt := false, cause := 0#4, resets := s.resets + 1 }) ∧
  (∀ s t : State, step s = .next t → (s.flt = true ∧ t.flt = false) ∨ (s.rv = true ∧ t.rv = false) →
    ∃ (h : HostAction) (rest : List HostAction), s.pending = h :: rest ∧ assertsReset h = true)

/-- 10_state.md R22: the state after reset, with `R` unspecified. -/
def Obligations.StatusReadsZeroAfterReset : Prop :=
  State.reset.rv = false ∧ State.reset.flt = false ∧ State.reset.cause = 0#4 ∧ status State.reset = 0#32

/-- 10_state.md R16: the layout of `STATUS`, its value at reset, that no code above 5 appears in a consistent state (which every
step keeps, and reset is), and that a read of it has no side effect. -/
def Obligations.StatusLayout : Prop :=
  (∀ s : State,
    (status s).getLsbD 0 = s.rv ∧ (status s).getLsbD 1 = s.flt ∧ (status s).extractLsb' 2 2 = 0#2 ∧
    (status s).extractLsb' 4 4 = s.cause ∧ (status s).extractLsb' 8 24 = 0#24) ∧
  status State.reset = 0#32 ∧
  (∀ s : State, StatusConsistent s → ((status s).extractLsb' 4 4).toNat ≤ 5) ∧
  (∀ (s : State) (rest : List HostAction), s.pending = .readStatus :: rest →
    step s = .next { s with pending := rest, reads := s.reads ++ [.status (status s)] })

/-- 10_state.md R15: a read of `R` returns the last result while `RV` = 1, some value while `RV` = 0, and changes nothing. -/
def Obligations.ReadOfRHasNoSideEffect : Prop :=
  ∀ (s : State) (rest : List HostAction), s.pending = .readR :: rest →
    ∃ v : Word, step s = .next { s with pending := rest, reads := s.reads ++ [.r v] } ∧ (s.rv = true → v = s.r)

/-- A port an operation does not read, and port `A` where `ASEL` = 1, has no effect (10_state.md section 2; 30_encoding.md
sections 2 and 3). -/
def Obligations.UnreadPortsHaveNoEffect : Prop :=
  ∀ (i : Instr) (s t : State) (p : Ports),
    (i.asel = .portA → p.a = s.ports.a) → (i.readsB = true → p.b = s.ports.b) → (i.readsC = true → p.c = s.ports.c) →
    exec i s = .next t → exec i { s with ports := p } = .next { t with ports := p }

/-- Instances share no state: a step of one is its own step and leaves every other as it was (60_exceptions.md section 10). -/
def Obligations.InstancesShareNoState : Prop :=
  ∀ (n : Nat) (k : Fin n) (sys : System n), ∃ t : System n, systemStep k sys = .next t ∧
    step sys[k] = .next t[k] ∧ ∀ j : Fin n, j ≠ k → t[j] = sys[j]

/-! ## Assembly -/

/-- Assembly of every operation (30_encoding.md section 5, its part on operands; how a line is written as text is not in it):
a line that lists exactly the operands the operation reads assembles to its word and those operand words, the ports it does not
read driven with 0 (port `A` too where the first operand is `R`). -/
def Obligations.EveryOperationAssembles : Prop :=
  ∀ (i : Instr) (a b c : Word),
    assembleLine ⟨(mnemonic i).toList,
      (if i.asel = .regR then .regR else .val a) ::
        ((if i.readsB then [.val b] else []) ++ (if i.readsC then [.val c] else []) ++
          (if i.format = .cmdS then [.sh i.sh] else []))⟩ =
    some ⟨encode i, ⟨if i.asel = .regR then 0#32 else a, if i.readsB then b else 0#32, if i.readsC then c else 0#32⟩⟩

/-- 30_encoding.md R45: each pseudo-instruction is one command, with the effect the rule gives. `x` is the first operand as
written, and `word s` its value. -/
def Obligations.PseudoInstructionsHaveTheirEffect : Prop :=
  (∀ v : Word, ∃ c : Command, assembleLine ⟨"LDR".toList, [.val v]⟩ = some c ∧
    assembleLine ⟨"MOV".toList, [.val v]⟩ = some c ∧
    ∀ s : State, s.flt = false → issue exec c s = .next { s with ports := c.ports, r := v, rv := true }) ∧
  (∃ c : Command, assembleLine ⟨"CLR".toList, []⟩ = some c ∧
    assembleLine ⟨"MOV".toList, [.val 0#32]⟩ = some c ∧
    ∀ s : State, s.flt = false → issue exec c s = .next { s with ports := c.ports, r := 0#32, rv := true }) ∧
  (∀ (x : AsmOperand) (asel : OpASel) (word : State → Word),
    (x = .regR ∧ asel = .regR ∧ word = fun s => s.r) ∨ (∃ v : Word, x = .val v ∧ asel = .portA ∧ word = fun _ => v) →
    (∃ c : Command, assembleLine ⟨"NOT".toList, [x]⟩ = some c ∧
      assembleLine ⟨"XOR32".toList, [x, .val 0xFFFFFFFF#32]⟩ = some c ∧
      ∀ s : State, Accepts asel s →
        issue exec c s = .next { s with ports := c.ports, r := ~~~ word s, rv := true }) ∧
    (∀ lo hi : Word, ∃ c : Command, assembleLine ⟨"CLAMP".toList, [x, .val lo, .val hi]⟩ = some c ∧
      assembleLine ⟨"LIMIT32".toList, [x, .val lo, .val hi]⟩ = some c ∧
      ∀ s : State, Accepts asel s → lo.toInt ≤ hi.toInt →
        issue exec c s =
          .next { s with
            ports := c.ports
            r := BitVec.ofInt 32 (max lo.toInt (min hi.toInt (word s).toInt))
            rv := true }) ∧
    (∃ c : Command, assembleLine ⟨"CLAMP16".toList, [x]⟩ = some c ∧
      assembleLine ⟨"SAT16".toList, [x]⟩ = some c ∧
      ∀ s : State, Accepts asel s →
        issue exec c s =
          .next { s with
            ports := c.ports
            r := BitVec.ofInt 32 (max (-32768) (min 32767 (word s).toInt))
            rv := true }) ∧
    assembleLine ⟨"SKP_SAT16".toList, [x]⟩ = assembleLine ⟨"SAT16".toList, [x]⟩ ∧
    ∀ b : Word, assembleLine ⟨"SKP_ADD_SAT32".toList, [x, .val b]⟩ = assembleLine ⟨"ADD_SAT32".toList, [x, .val b]⟩)

/-! ## Saturating add, subtract and clamp -/

/-- 40_saturating.md R47, R48. -/
def Obligations.SaturatingAddAndSubtract : Prop :=
  RuleN 0x10#6 .addSat32 (fun a b _ => BitVec.ofInt 32 (max (-2147483648) (min 2147483647 (a.toInt + b.toInt)))) ∧
  RuleN 0x11#6 .subSat32 (fun a b _ => BitVec.ofInt 32 (max (-2147483648) (min 2147483647 (a.toInt - b.toInt))))

/-- 40_saturating.md R49: a wrapped sum, replaced by `INT32_MAX` where it is negative. -/
def Obligations.AddPosSat32TestsTheWrappedSum : Prop :=
  RuleN 0x12#6 .addPosSat32 fun a b _ => if (a + b).toInt < 0 then 0x7FFFFFFF#32 else a + b

/-- 40_saturating.md R50, R51, R52: saturation to 16 bits, the result sign-extended; the first two read bottom halfwords. -/
def Obligations.SixteenBitSaturation : Prop :=
  RuleN 0x13#6 .addSat16 (fun a b _ => BitVec.ofInt 32 (max (-32768) (min 32767 (bottom a + bottom b)))) ∧
  RuleN 0x14#6 .subSat16 (fun a b _ => BitVec.ofInt 32 (max (-32768) (min 32767 (bottom a - bottom b)))) ∧
  RuleN 0x15#6 .sat16 (fun a _ _ => BitVec.ofInt 32 (max (-32768) (min 32767 a.toInt)))

/-- 40_saturating.md R53, the pseudocode. -/
def Obligations.Limit32OrderOfTests : Prop :=
  RuleN 0x16#6 .limit32 fun a l1 l2 =>
    if l1.toInt > l2.toInt then (if a.toInt > l1.toInt then l1 else if a.toInt < l2.toInt then l2 else a)
    else (if a.toInt > l2.toInt then l2 else if a.toInt < l1.toInt then l1 else a)

/-- LIMIT32 clamps between the smaller and the larger limit, so the limits may be swapped (40_saturating.md section of
LIMIT32, the sentence marked [derived]). -/
def Obligations.Limit32ClampsBetweenItsLimits : Prop :=
  WritesResult .limit32 fun a l1 l2 =>
    BitVec.ofInt 32 (max (min l1.toInt l2.toInt) (min (max l1.toInt l2.toInt) a.toInt))

/-- 40_saturating.md R54, the pseudocode: limit, then shift. -/
def Obligations.LshiftSat32LimitsThenShifts : Prop :=
  RuleS 0x17#6 .lshiftSat32 fun a _ _ sh =>
    BitVec.ofInt 32 (max ⌊(-2147483648 : ℚ) / 2 ^ sh⌋ (min ⌊(2147483647 : ℚ) / 2 ^ sh⌋ a.toInt) * 2 ^ sh)

/-- What LSHIFT_SAT32 saturates to (40_saturating.md, its corner cases marked [derived]): exact in range, `INT32_MIN` below,
and above not `INT32_MAX` but `2^31 - 2^SH`. -/
def Obligations.LshiftSat32SaturationPoints : Prop :=
  ∀ (asel : OpASel) (s : State) (sh : Shift), Accepts asel s →
    ∃ v : Word, exec (.lshiftSat32 asel sh) s = .next { s with r := v, rv := true } ∧
      (-2147483648 ≤ (opA asel s).toInt * 2 ^ sh.toNat ∧ (opA asel s).toInt * 2 ^ sh.toNat ≤ 2147483647 →
        v.toInt = (opA asel s).toInt * 2 ^ sh.toNat) ∧
      ((opA asel s).toInt * 2 ^ sh.toNat < -2147483648 → v.toInt = -2147483648) ∧
      (2147483647 < (opA asel s).toInt * 2 ^ sh.toNat → v.toInt = 2147483648 - 2 ^ sh.toNat)

/-- ADD_SAT32 is the reference library's sign-bit test on wrapped sums (40_saturating.md, the sentence marked [derived]). -/
def Obligations.AddSat32IsTheSignBitTest : Prop :=
  WritesResult .addSat32 fun a b _ =>
    if (a + b) &&& 0x80000000#32 = 0#32 then
      (if (a &&& b) &&& 0x80000000#32 ≠ 0#32 then 0x80000000#32 else a + b)
    else
      (if (a ||| b) &&& 0x80000000#32 = 0#32 then 0x7FFFFFFF#32 else a + b)

/-- Of operands that are not negative, ADD_POS_SAT32 is the sum limited to `INT32_MAX` (40_saturating.md, its corner case
marked [derived]). -/
def Obligations.AddPosSat32OfNonNegatives : Prop :=
  ∀ (asel : OpASel) (s : State), Accepts asel s → 0 ≤ (opA asel s).toInt → 0 ≤ s.ports.b.toInt →
    exec (.addPosSat32 asel) s =
      .next { s with r := BitVec.ofInt 32 (min ((opA asel s).toInt + s.ports.b.toInt) 2147483647), rv := true }

/-! ## Rounding and plain shifts -/

/-- 41_shift_round.md R56: the rounding shift, and `BAD_SHIFT` for a shift by 0. -/
def Obligations.RshiftRoundRoundsToNearest : Prop :=
  (∀ w : Word, w.extractLsb' 0 6 = 0x18#6 →
    decode w =
      if w &&& 0xFFFFE0BF#32 = 0x18#32 then
        if w.extractLsb' 8 5 = 0#5 then .fault .badShift
        else .ok (.rshiftRound (if w.getLsbD 6 then .regR else .portA) (w.extractLsb' 8 5))
      else .fault .reservedField) ∧
  ∀ sh : Shift, sh ≠ 0#5 →
    CommonExceptions (fun asel => .rshiftRound asel sh) ∧
    WritesResult (fun asel => .rshiftRound asel sh) fun a _ _ =>
      BitVec.ofInt 32 ⌊((a.toInt : ℚ) + 2 ^ (sh.toNat - 1)) / 2 ^ sh.toNat⌋

/-- The rounding shift is the reference library's form on 32-bit values, and its exact value stays in
[-2^(31-SH), 2^(31-SH)] (41_shift_round.md, the sentence marked [derived]). -/
def Obligations.RshiftRoundReferenceForm : Prop :=
  ∀ (asel : OpASel) (s : State) (sh : Shift), sh ≠ 0#5 → Accepts asel s →
    ∃ v : Word, exec (.rshiftRound asel sh) s = .next { s with r := v, rv := true } ∧
      v = (if sh = 1#5 then (opA asel s).sshiftRight 1 + ((opA asel s) &&& 1#32)
           else ((opA asel s).sshiftRight (sh.toNat - 1) + 1#32).sshiftRight 1) ∧
      v.toInt = ⌊(((opA asel s).toInt : ℚ) + 2 ^ (sh.toNat - 1)) / 2 ^ sh.toNat⌋ ∧
      -2 ^ (31 - sh.toNat) ≤ v.toInt ∧ v.toInt ≤ 2 ^ (31 - sh.toNat)

/-- 41_shift_round.md R57, R58, R59: the left shift loses the bits above bit 31, the right shifts floor the signed and the
unsigned value. -/
def Obligations.PlainShifts : Prop :=
  RuleS 0x19#6 .lshift32 (fun a _ _ sh => a <<< sh) ∧
  RuleS 0x1A#6 .rshift32 (fun a _ _ sh => BitVec.ofInt 32 ⌊(a.toInt : ℚ) / 2 ^ sh⌋) ∧
  RuleS 0x1B#6 .rshiftUint32 (fun a _ _ sh => BitVec.ofInt 32 ⌊(a.toNat : ℚ) / 2 ^ sh⌋)

/-- 41_shift_round.md R60, R61, R62, R63: the shift first, then a wrapping sum or difference. -/
def Obligations.AddAndSubtractShifted : Prop :=
  RuleS 0x1C#6 .addLshift32 (fun a b _ sh => a + b <<< sh) ∧
  RuleS 0x1D#6 .addRshift32 (fun a b _ sh => a + BitVec.ofInt 32 ⌊(b.toInt : ℚ) / 2 ^ sh⌋) ∧
  RuleS 0x1E#6 .subLshift32 (fun a b _ sh => a - b <<< sh) ∧
  RuleS 0x1F#6 .subRshift32 (fun a b _ sh => a - BitVec.ofInt 32 ⌊(b.toInt : ℚ) / 2 ^ sh⌋)

/-! ## Q-format multiply and multiply-accumulate -/

/-- 42_mac.md R66 to R69: products of two halfwords, which always fit, and their wrapping accumulation. -/
def Obligations.HalfwordProducts : Prop :=
  RuleN 0x20#6 .smulbb (fun a b _ => BitVec.ofInt 32 (bottom a * bottom b)) ∧
  RuleN 0x21#6 .smlabb (fun a b c => BitVec.ofInt 32 (a.toInt + bottom b * bottom c)) ∧
  RuleN 0x22#6 .smulbt (fun a b _ => BitVec.ofInt 32 (bottom a * top b)) ∧
  RuleN 0x23#6 .smlabt (fun a b c => BitVec.ofInt 32 (a.toInt + bottom b * top c)) ∧
  (∀ a b : Word, -1073709056 ≤ bottom a * bottom b ∧ bottom a * bottom b ≤ 1073741824 ∧
    -1073709056 ≤ bottom a * top b ∧ bottom a * top b ≤ 1073741824)

/-- 42_mac.md R70 to R73: products of a word and a halfword, scaled by 2^-16 and floored, which always fit, and their wrapping
accumulation. -/
def Obligations.WordByHalfwordProducts : Prop :=
  RuleN 0x24#6 .smulwb (fun a b _ => BitVec.ofInt 32 ⌊((a.toInt * bottom b : Int) : ℚ) / 2 ^ 16⌋) ∧
  RuleN 0x25#6 .smlawb (fun a b c => BitVec.ofInt 32 (a.toInt + ⌊((b.toInt * bottom c : Int) : ℚ) / 2 ^ 16⌋)) ∧
  RuleN 0x26#6 .smulwt (fun a b _ => BitVec.ofInt 32 ⌊((a.toInt * top b : Int) : ℚ) / 2 ^ 16⌋) ∧
  RuleN 0x27#6 .smlawt (fun a b c => BitVec.ofInt 32 (a.toInt + ⌊((b.toInt * top c : Int) : ℚ) / 2 ^ 16⌋)) ∧
  (∀ a b : Word,
    -1073741824 ≤ ⌊((a.toInt * bottom b : Int) : ℚ) / 2 ^ 16⌋ ∧ ⌊((a.toInt * bottom b : Int) : ℚ) / 2 ^ 16⌋ ≤ 1073741824 ∧
    -1073741824 ≤ ⌊((a.toInt * top b : Int) : ℚ) / 2 ^ 16⌋ ∧ ⌊((a.toInt * top b : Int) : ℚ) / 2 ^ 16⌋ ≤ 1073741824)

/-- 42_mac.md R74 to R77: products of two words, scaled and floored or whole, all wrapping modulo 2^32. -/
def Obligations.WordByWordProducts : Prop :=
  RuleN 0x28#6 .smulww (fun a b _ => BitVec.ofInt 32 ⌊((a.toInt * b.toInt : Int) : ℚ) / 2 ^ 16⌋) ∧
  RuleN 0x29#6 .smlaww (fun a b c => BitVec.ofInt 32 (a.toInt + ⌊((b.toInt * c.toInt : Int) : ℚ) / 2 ^ 16⌋)) ∧
  RuleN 0x2A#6 .mul32 (fun a b _ => a * b) ∧
  RuleN 0x2B#6 .mla32 (fun a b c => a + b * c)

/-- The reference library's two-part forms of the word by halfword operations, on wrapping 32-bit arithmetic (42_mac.md, the
sentences marked [derived]): the high half times the halfword, plus the low half's product shifted right. -/
def Obligations.WordByHalfwordReferenceForms : Prop :=
  WritesResult .smulwb (fun a b _ =>
    a.sshiftRight 16 * (b.setWidth 16).signExtend 32 +
      ((a &&& 0xFFFF#32) * (b.setWidth 16).signExtend 32).sshiftRight 16) ∧
  WritesResult .smulwt (fun a b _ =>
    a.sshiftRight 16 * b.sshiftRight 16 + ((a &&& 0xFFFF#32) * b.sshiftRight 16).sshiftRight 16) ∧
  WritesResult .smlawt (fun a b c =>
    a + b.sshiftRight 16 * c.sshiftRight 16 + ((b &&& 0xFFFF#32) * c.sshiftRight 16).sshiftRight 16)

/-- SMULWW and SMLAWW from the word by halfword product and the rounding shift, on wrapping 32-bit arithmetic (42_mac.md, the
sentences marked [derived]). -/
def Obligations.WordByWordReferenceForms : Prop :=
  WritesResult .smulww (fun a b _ => smulwb a b + a * rshiftRound b 16#5) ∧
  WritesResult .smlaww (fun a b c => smlawb a b c + b * rshiftRound c 16#5)

/-- The bias of the `W` multiplies (42_mac.md section of the bias, marked [derived]): the result is never above the exact
scaled product and less than one unit of its last place below it. -/
def Obligations.WordByHalfwordBias : Prop :=
  ∀ (asel : OpASel) (s : State), Accepts asel s →
    (∃ t : State, exec (.smulwb asel) s = .next t ∧
      (t.r.toInt : ℚ) ≤ ((opA asel s).toInt * bottom s.ports.b : ℚ) / 2 ^ 16 ∧
      ((opA asel s).toInt * bottom s.ports.b : ℚ) / 2 ^ 16 < t.r.toInt + 1) ∧
    (∃ t : State, exec (.smulwt asel) s = .next t ∧
      (t.r.toInt : ℚ) ≤ ((opA asel s).toInt * top s.ports.b : ℚ) / 2 ^ 16 ∧
      ((opA asel s).toInt * top s.ports.b : ℚ) / 2 ^ 16 < t.r.toInt + 1)

/-- The Q-format of results (42_mac.md section of the Q-format, marked [derived]): with factors in Qx and Qy a halfword
product is Q(x+y), exactly; and an accumulation that stays in range adds Q(x+y) to Q(x+y). -/
def Obligations.QFormatOfHalfwordProducts : Prop :=
  ∀ (x y : Nat) (asel : OpASel) (s : State), Accepts asel s →
    (∃ t : State, exec (.smulbb asel) s = .next t ∧
      qValue (x + y) t.r = (bottom (opA asel s) / 2 ^ x : ℚ) * (bottom s.ports.b / 2 ^ y : ℚ)) ∧
    (∃ t : State, exec (.smulbt asel) s = .next t ∧
      qValue (x + y) t.r = (bottom (opA asel s) / 2 ^ x : ℚ) * (top s.ports.b / 2 ^ y : ℚ)) ∧
    (∃ t : State, exec (.smlabb asel) s = .next t ∧
      (-2147483648 ≤ (opA asel s).toInt + bottom s.ports.b * bottom s.ports.c ∧
        (opA asel s).toInt + bottom s.ports.b * bottom s.ports.c ≤ 2147483647 →
        qValue (x + y) t.r =
          qValue (x + y) (opA asel s) + (bottom s.ports.b / 2 ^ x : ℚ) * (bottom s.ports.c / 2 ^ y : ℚ))) ∧
    (∃ t : State, exec (.smlabt asel) s = .next t ∧
      (-2147483648 ≤ (opA asel s).toInt + bottom s.ports.b * top s.ports.c ∧
        (opA asel s).toInt + bottom s.ports.b * top s.ports.c ≤ 2147483647 →
        qValue (x + y) t.r =
          qValue (x + y) (opA asel s) + (bottom s.ports.b / 2 ^ x : ℚ) * (top s.ports.c / 2 ^ y : ℚ)))

/-! ## Supporting integer operations -/

/-- 43_support.md R81 to R84: the move, and the wrapping sum, difference and negation. -/
def Obligations.MoveAndWrappingArithmetic : Prop :=
  RuleN 0x01#6 .mov (fun a _ _ => a) ∧
  RuleN 0x02#6 .add32 (fun a b _ => a + b) ∧
  RuleN 0x03#6 .sub32 (fun a b _ => a - b) ∧
  RuleN 0x04#6 .neg32 (fun a _ _ => -a)

/-- 43_support.md R85, R86, R87: the wrapping absolute value, the signed maximum and minimum. -/
def Obligations.AbsoluteValueMaximumMinimum : Prop :=
  RuleN 0x05#6 .abs32 (fun a _ _ => if a.toInt > 0 then a else -a) ∧
  RuleN 0x06#6 .max32 (fun a b _ => BitVec.ofInt 32 (max a.toInt b.toInt)) ∧
  RuleN 0x07#6 .min32 (fun a b _ => BitVec.ofInt 32 (min a.toInt b.toInt))

/-- 43_support.md R88: the quotient rounding toward zero, wrapped; `DIV_ZERO` for a zero divisor, after the other checks. -/
def Obligations.Div32TruncatesAndFaultsOnZero : Prop :=
  EncodedN 0x08#6 .div32 ∧ CommonExceptions .div32 ∧
  (∀ (asel : OpASel) (s : State), Accepts asel s → s.ports.b ≠ 0#32 →
    exec (.div32 asel) s =
      .next { s with
        r := BitVec.ofInt 32
          ((opA asel s).toInt.sign * s.ports.b.toInt.sign *
            ⌊((opA asel s).toInt.natAbs : ℚ) / (s.ports.b.toInt.natAbs : ℚ)⌋)
        rv := true }) ∧
  (∀ (asel : OpASel) (s : State), Accepts asel s → s.ports.b = 0#32 →
    exec (.div32 asel) s = .next { s with flt := true, cause := 4#4 })

/-- 43_support.md R89, R90, R91: bit i of the result is the and, or, exclusive or of the operands' bits i. -/
def Obligations.BitwiseOperations : Prop :=
  RuleN 0x09#6 .and32 (fun a b _ => a &&& b) ∧
  RuleN 0x0A#6 .or32 (fun a b _ => a ||| b) ∧
  RuleN 0x0B#6 .xor32 (fun a b _ => a ^^^ b)

/-- With the mask `2^k - 1` AND32 is the first operand modulo 2^k, not negative for any operand up to k = 31 (43_support.md,
the corner case of AND32). -/
def Obligations.And32WithAMaskIsARemainder : Prop :=
  ∀ (asel : OpASel) (s : State) (k : Nat), k < 32 → Accepts asel s → s.ports.b = BitVec.ofNat 32 (2 ^ k - 1) →
    ∃ v : Word, exec (.and32 asel) s = .next { s with r := v, rv := true } ∧ v.toInt = (opA asel s).toInt % 2 ^ k

/-- 43_support.md R92: 32 for the zero word; otherwise 31 - i, where i is the place of the most significant 1 bit. -/
def Obligations.Clz32CountsLeadingZeros : Prop :=
  EncodedN 0x0C#6 .clz32 ∧ CommonExceptions .clz32 ∧
  ∀ (asel : OpASel) (s : State), Accepts asel s →
    ∃ v : Word, exec (.clz32 asel) s = .next { s with r := v, rv := true } ∧
      (opA asel s = 0#32 → v = 32#32) ∧
      (opA asel s ≠ 0#32 → ∃ i : Nat, i < 32 ∧ (opA asel s).getLsbD i = true ∧
        (∀ j : Nat, i < j → (opA asel s).getLsbD j = false) ∧ v = BitVec.ofNat 32 (31 - i))

/-- 43_support.md R93: one step of the generator, modulo 2^32. -/
def Obligations.RandStepsTheGenerator : Prop :=
  RuleN 0x0D#6 .rand fun a _ _ => 907633515#32 + a * 196314165#32

/-- The overflowing corners of four operations all give `INT32_MIN` and none faults (60_exceptions.md section 6, marked
[derived]). -/
def Obligations.OverflowingCornersDoNotFault : Prop :=
  ∀ s : State, s.flt = false → s.ports.a = 0x80000000#32 →
    exec (.abs32 .portA) s = .next { s with r := 0x80000000#32, rv := true } ∧
    exec (.neg32 .portA) s = .next { s with r := 0x80000000#32, rv := true } ∧
    (s.ports.b = 0xFFFFFFFF#32 →
      exec (.div32 .portA) s = .next { s with r := 0x80000000#32, rv := true } ∧
      exec (.mul32 .portA) s = .next { s with r := 0x80000000#32, rv := true })
end

