-- ==== Sys2Proof/Laws/Arith.lean ====
section
/-! SUPPORT. The arithmetic of 00_scope.md R6 to R8 against the library's: wraps are bit vector arithmetic, floors are the
mathematical floor, saturation is maximum and minimum. -/

namespace Sys2Proof.Machine

/-! ## Wrapping -/

/-- Writing a word's own value gives the word. -/
@[simp] theorem wrap32_s32 (x : Word) : wrap32 (s32 x) = x := BitVec.ofInt_toInt

/-- A value in range is kept (00_scope.md R7). -/
theorem s32_wrap32 {n : Int} (lo : -2147483648 ≤ n) (hi : n ≤ 2147483647) : s32 (wrap32 n) = n := by
  have := BitVec.toInt_ofInt_eq_self (w := 32) (by decide) (by simpa using lo) (by simp; omega)
  exact this

/-- The range of a word's value (00_scope.md R6). -/
theorem s32_bounds (x : Word) : -2147483648 ≤ s32 x ∧ s32 x ≤ 2147483647 := by
  have h1 := BitVec.two_mul_toInt_lt (x := x)
  have h2 := BitVec.le_two_mul_toInt (x := x)
  unfold s32
  omega

theorem wrap32_add (m n : Int) : wrap32 (m + n) = wrap32 m + wrap32 n := BitVec.ofInt_add ..

theorem wrap32_mul (m n : Int) : wrap32 (m * n) = wrap32 m * wrap32 n := BitVec.ofInt_mul ..

theorem wrap32_neg (n : Int) : wrap32 (-n) = -wrap32 n := BitVec.ofInt_neg ..

theorem wrap32_sub (m n : Int) : wrap32 (m - n) = wrap32 m - wrap32 n := by
  rw [Int.sub_eq_add_neg, wrap32_add, wrap32_neg, BitVec.sub_eq_add_neg]

/-! ## Saturation -/

/-- Clamping is a maximum of a minimum (00_scope.md R7). -/
theorem clamp_eq (n : Int) {lo hi : Int} (h : lo ≤ hi) : clamp n lo hi = max lo (min hi n) := by
  unfold clamp
  split
  · omega
  · split <;> omega

theorem sat32_eq (n : Int) : sat32 n = max (-2147483648) (min 2147483647 n) := clamp_eq n (by decide)

theorem sat16_eq (n : Int) : sat16 n = max (-32768) (min 32767 n) := clamp_eq n (by decide)

/-! ## Halfwords -/

theorem lo16_bounds (x : Word) : -32768 ≤ lo16 x ∧ lo16 x ≤ 32767 := by
  have h1 := BitVec.two_mul_toInt_lt (x := x.extractLsb' 0 16)
  have h2 := BitVec.le_two_mul_toInt (x := x.extractLsb' 0 16)
  unfold lo16
  omega

theorem hi16_bounds (x : Word) : -32768 ≤ hi16 x ∧ hi16 x ≤ 32767 := by
  have h1 := BitVec.two_mul_toInt_lt (x := x.extractLsb' 16 16)
  have h2 := BitVec.le_two_mul_toInt (x := x.extractLsb' 16 16)
  unfold hi16
  omega

/-- The top halfword is the word shifted right by 16 (00_scope.md R8). -/
theorem hi16_eq_asr (x : Word) : hi16 x = asr x 16 := by
  unfold hi16 asr floorShift s32
  rw [BitVec.toInt_eq_toNat_cond, BitVec.toInt_eq_toNat_cond, BitVec.extractLsb'_toNat, Nat.shiftRight_eq_div_pow]
  have := x.isLt
  split <;> split <;> omega

/-- A word is its top halfword times 2^16 plus its unsigned bottom halfword. -/
theorem s32_eq_hi16 (x : Word) : s32 x = hi16 x * 65536 + s32 x % 65536 := by
  rw [hi16_eq_asr]
  unfold asr floorShift
  omega

/-- The bottom halfword is congruent to the word modulo 2^16. -/
theorem lo16_emod (x : Word) : lo16 x % 65536 = s32 x % 65536 := by
  unfold lo16 s32
  rw [BitVec.toInt_eq_toNat_cond, BitVec.toInt_eq_toNat_cond, BitVec.extractLsb'_toNat, Nat.shiftRight_eq_div_pow]
  split <;> split <;> omega

/-! ## Floors and shifts -/

/-- The integer quotient by a power of two is the mathematical floor (00_scope.md R8). -/
theorem floorShift_eq_floor (n : Int) (s : Nat) : floorShift n s = ⌊(n : ℚ) / 2 ^ s⌋ := by
  have h := Rat.floor_intCast_div_natCast n (2 ^ s)
  push_cast at h
  rw [h]
  rfl

/-- The left shift is the bit vector's. -/
theorem lsl_eq_shiftLeft (x : Word) (s : Nat) : lsl x s = x <<< s := by
  unfold lsl
  rw [wrap32_mul, wrap32_s32, BitVec.shiftLeft_eq_mul_twoPow]
  congr 1
  have h : ((2 : Int) ^ s) = ((2 ^ s : Nat) : Int) := by push_cast; rfl
  rw [h, wrap32, BitVec.ofInt_natCast]
  apply BitVec.eq_of_toNat_eq
  rw [BitVec.toNat_ofNat, BitVec.toNat_twoPow]

/-! ## Leading zeros -/

/-- What `topBit` answers. -/
theorem topBit_spec (x : Word) (n : Nat) :
    (topBit x n = none ∧ ∀ j < n, x.getLsbD j = false) ∨
    (∃ i < n, topBit x n = some i ∧ x.getLsbD i = true ∧ ∀ j, i < j → j < n → x.getLsbD j = false) := by
  induction n with
  | zero => exact .inl ⟨rfl, by simp⟩
  | succ n ih =>
    unfold topBit
    cases hn : x.getLsbD n with
    | true => exact .inr ⟨n, by omega, by simp, hn, by omega⟩
    | false =>
      simp only [Bool.false_eq_true, if_false]
      rcases ih with ⟨h, hz⟩ | ⟨i, hi, h, hx, hz⟩
      · refine .inl ⟨h, fun j hj => ?_⟩
        rcases Nat.lt_succ_iff_lt_or_eq.mp hj with h | rfl
        · exact hz j h
        · exact hn
      · refine .inr ⟨i, by omega, h, hx, fun j hj hj' => ?_⟩
        rcases Nat.lt_succ_iff_lt_or_eq.mp hj' with h | rfl
        · exact hz j hj h
        · exact hn

end Sys2Proof.Machine
end

