-- ==== Sys2Proof/Laws/Encoding.lean ====
section
/-! SUPPORT. The bits and fields of an encoded word, and the opcode map read both ways. -/

namespace Sys2Proof.Laws.Encoding

/-- Every bit of an encoded word (30_encoding.md R36). -/
theorem getLsbD_encode (i : Instr) (k : Nat) :
    (encode i).getLsbD k =
      if k < 6 then i.opcode.getLsbD k
      else if k < 7 then i.asel.bit.getLsbD (k - 6)
      else if k < 8 then false
      else i.sh.getLsbD (k - 8) := by
  show BitVec.getLsbD (w := 19 + 5 + 1 + 1 + 6) (0#19 ++ i.sh ++ 0#1 ++ i.asel.bit ++ i.opcode) k = _
  simp only [BitVec.getLsbD_append, BitVec.getLsbD_zero]
  by_cases h6 : k < 6
  · simp [h6]
  by_cases h7 : k < 7
  · simp [h6, show k - 6 < 1 by omega, h7]
  by_cases h8 : k < 8
  · simp [h6, h7, h8, show ¬ k - 6 < 1 by omega, show k - 6 - 1 < 1 by omega]
  have e : k - 6 - 1 - 1 = k - 8 := by omega
  simp only [h6, h7, h8, show ¬ k - 6 < 1 by omega, show ¬ k - 6 - 1 < 1 by omega, e, if_false]
  by_cases h13 : k - 8 < 5
  · simp [h13]
  · simp [h13, BitVec.getLsbD_of_ge i.sh (k - 8) (by omega)]

/-- The fields of an encoded word are the instruction's, and its reserved bits are clear. -/
theorem fields_encode (i : Instr) :
    opField (encode i) = i.opcode ∧ aselField (encode i) = i.asel ∧ shField (encode i) = i.sh ∧
      reservedClear (encode i) = true := by
  unfold opField aselField shField reservedClear
  refine ⟨?_, ?_, ?_, ?_⟩
  · ext k hk
    rw [BitVec.getElem_extractLsb', getLsbD_encode]
    simp [hk]
  · rw [getLsbD_encode]
    cases i.asel <;> simp [OpASel.bit]
  · ext k hk
    rw [BitVec.getElem_extractLsb', getLsbD_encode]
    simp [show ¬ 8 + k < 6 by omega, show ¬ 8 + k < 7 by omega, show ¬ 8 + k < 8 by omega, BitVec.getLsbD_eq_getElem hk]
  · have h : (encode i).extractLsb' 13 19 = 0#19 := by
      ext k hk
      rw [BitVec.getElem_extractLsb', getLsbD_encode]
      simp [show ¬ 13 + k < 6 by omega, show ¬ 13 + k < 7 by omega, show ¬ 13 + k < 8 by omega,
        BitVec.getLsbD_of_ge i.sh (13 + k - 8) (by omega)]
    rw [h, getLsbD_encode]
    simp
/-- A word is the encoding of an instruction that has its fields. -/
theorem encode_eq_of_fields {w : Word} {i : Instr} (ho : i.opcode = opField w) (ha : i.asel = aselField w)
    (hs : i.sh = shField w) (hr : reservedClear w = true) : encode i = w := by
  unfold opField at ho
  unfold shField at hs
  simp only [reservedClear, Bool.and_eq_true, Bool.not_eq_true', beq_iff_eq] at hr
  refine BitVec.eq_of_getLsbD_eq fun k hk => ?_
  rw [getLsbD_encode, ho, ha, hs]
  split
  · simp_all
  split
  · have : k = 6 := by omega
    subst this
    unfold aselField
    cases h : w.getLsbD 6 <;> simp [OpASel.bit]
  split
  · have : k = 7 := by omega
    subst this
    exact hr.1.symm
  · rw [BitVec.getLsbD_extractLsb']
    by_cases h : k < 13
    · simp [show k - 8 < 5 by omega, show 8 + (k - 8) = k by omega]
    · have := congrArg (fun x => x.getLsbD (k - 13)) hr.2
      simp [show k - 13 < 19 by omega, show 13 + (k - 13) = k by omega] at this
      simp [show ¬ k - 8 < 5 by omega, this]

/-- The opcode map gives an instruction back from its own fields (30_encoding.md R40). -/
theorem instrOf_fields (i : Instr) : instrOf i.opcode.toNat i.asel i.sh = some i := by
  cases i <;> rfl

/-- An instruction the opcode map gives has the `OP` and the `ASEL` it was asked for, and in format CMD-S the `SH`. -/
theorem fields_of_instrOf {op : Nat} {asel : OpASel} {sh : Shift} {i : Instr} (h : instrOf op asel sh = some i) :
    i.opcode.toNat = op ∧ i.asel = asel ∧ (i.format = .cmdS → i.sh = sh) := by
  unfold instrOf at h
  split at h
  all_goals first | (cases h; exact ⟨rfl, rfl, by simp [Instr.format, Instr.sh]⟩) | cases h

/-- In format CMD-N the `SH` of an instruction is 0 (30_encoding.md R37). -/
theorem sh_of_cmdN {i : Instr} (h : i.format = .cmdN) : i.sh = 0#5 := by
  cases i <;> first | rfl | cases h

end Sys2Proof.Laws.Encoding
end

