-- ==== Sys2Proof/Laws/State.lean ====
section
/-! SUPPORT. Each field after each update of the state, true by definition, so that no later proof unfolds an update. -/

namespace Sys2Proof.Machine

variable (s : State)

@[simp] theorem writeR_r (v : Word) : (writeR v s).r = v := rfl
@[simp] theorem writeR_rv (v : Word) : (writeR v s).rv = true := rfl
@[simp] theorem writeR_flt (v : Word) : (writeR v s).flt = s.flt := rfl
@[simp] theorem writeR_cause (v : Word) : (writeR v s).cause = s.cause := rfl
@[simp] theorem writeR_ports (v : Word) : (writeR v s).ports = s.ports := rfl
@[simp] theorem writeR_pending (v : Word) : (writeR v s).pending = s.pending := rfl
@[simp] theorem writeR_reads (v : Word) : (writeR v s).reads = s.reads := rfl
@[simp] theorem writeR_resets (v : Word) : (writeR v s).resets = s.resets := rfl

@[simp] theorem takeFault_r (c : Cause) : (takeFault c s).r = s.r := rfl
@[simp] theorem takeFault_rv (c : Cause) : (takeFault c s).rv = s.rv := rfl
@[simp] theorem takeFault_flt (c : Cause) : (takeFault c s).flt = true := rfl
@[simp] theorem takeFault_cause (c : Cause) : (takeFault c s).cause = c.code := rfl
@[simp] theorem takeFault_ports (c : Cause) : (takeFault c s).ports = s.ports := rfl
@[simp] theorem takeFault_pending (c : Cause) : (takeFault c s).pending = s.pending := rfl
@[simp] theorem takeFault_reads (c : Cause) : (takeFault c s).reads = s.reads := rfl
@[simp] theorem takeFault_resets (c : Cause) : (takeFault c s).resets = s.resets := rfl

@[simp] theorem resetUnit_r : (resetUnit s).r = Config.rReset (s.resets + 1) := rfl
@[simp] theorem resetUnit_rv : (resetUnit s).rv = false := rfl
@[simp] theorem resetUnit_flt : (resetUnit s).flt = false := rfl
@[simp] theorem resetUnit_cause : (resetUnit s).cause = 0#4 := rfl
@[simp] theorem resetUnit_ports : (resetUnit s).ports = s.ports := rfl
@[simp] theorem resetUnit_pending : (resetUnit s).pending = s.pending := rfl
@[simp] theorem resetUnit_reads : (resetUnit s).reads = s.reads := rfl
@[simp] theorem resetUnit_resets : (resetUnit s).resets = s.resets + 1 := rfl

@[simp] theorem sample_r (p : Ports) : (sample p s).r = s.r := rfl
@[simp] theorem sample_rv (p : Ports) : (sample p s).rv = s.rv := rfl
@[simp] theorem sample_flt (p : Ports) : (sample p s).flt = s.flt := rfl
@[simp] theorem sample_cause (p : Ports) : (sample p s).cause = s.cause := rfl
@[simp] theorem sample_ports (p : Ports) : (sample p s).ports = p := rfl
@[simp] theorem sample_pending (p : Ports) : (sample p s).pending = s.pending := rfl
@[simp] theorem sample_reads (p : Ports) : (sample p s).reads = s.reads := rfl
@[simp] theorem sample_resets (p : Ports) : (sample p s).resets = s.resets := rfl

@[simp] theorem record_r (v : HostRead) : (record v s).r = s.r := rfl
@[simp] theorem record_rv (v : HostRead) : (record v s).rv = s.rv := rfl
@[simp] theorem record_flt (v : HostRead) : (record v s).flt = s.flt := rfl
@[simp] theorem record_cause (v : HostRead) : (record v s).cause = s.cause := rfl
@[simp] theorem record_ports (v : HostRead) : (record v s).ports = s.ports := rfl
@[simp] theorem record_pending (v : HostRead) : (record v s).pending = s.pending := rfl
@[simp] theorem record_reads (v : HostRead) : (record v s).reads = s.reads ++ [v] := rfl
@[simp] theorem record_resets (v : HostRead) : (record v s).resets = s.resets := rfl

@[simp] theorem placeCommand_r (c : Command) : (placeCommand c s).r = s.r := rfl
@[simp] theorem placeCommand_rv (c : Command) : (placeCommand c s).rv = s.rv := rfl
@[simp] theorem placeCommand_flt (c : Command) : (placeCommand c s).flt = s.flt := rfl
@[simp] theorem placeCommand_cause (c : Command) : (placeCommand c s).cause = s.cause := rfl
@[simp] theorem placeCommand_ports (c : Command) : (placeCommand c s).ports = s.ports := rfl
@[simp] theorem placeCommand_pending (c : Command) : (placeCommand c s).pending = .issue c :: s.pending := rfl
@[simp] theorem placeCommand_reads (c : Command) : (placeCommand c s).reads = s.reads := rfl
@[simp] theorem placeCommand_resets (c : Command) : (placeCommand c s).resets = s.resets := rfl

end Sys2Proof.Machine
end

