-- ==== Sys2Proof/Laws/Ops.lean ====
section
/-! SUPPORT. Everything a shared operation, a meaning and an action of the host can do: one lemma each. -/

namespace Sys2Proof.Machine

/-! ## Performing a command -/

/-- While `FLT` = 0, raising a fault is fault entry. -/
theorem raiseFault_eq {s : State} (h : s.flt = false) (c : Cause) : raiseFault c s = .next (takeFault c s) := by
  simp [raiseFault, h]

/-- A faulted unit ignores a command. -/
theorem perform_ignored {s : State} (h : s.flt = true) (asel : OpASel) (f : Word → Executed) :
    perform asel s f = .next s := by
  simp [perform, h]

/-- An unreadable first operand faults. -/
theorem perform_unwritten {asel : OpASel} {s : State} (h : s.flt = false) (ha : opAReadable asel s = false)
    (f : Word → Executed) : perform asel s f = .next (takeFault .rUnwritten s) := by
  simp [perform, h, ha, raiseFault]

/-- An accepted command whose operation has a value writes it. -/
theorem perform_value {asel : OpASel} {s : State} (h : s.flt = false) (ha : opAReadable asel s = true)
    {f : Word → Executed} {v : Word} (hf : f (opA asel s) = .value v) : perform asel s f = .next (writeR v s) := by
  simp [perform, h, ha, hf]

/-- An accepted command whose operation faults takes that fault. -/
theorem perform_fault {asel : OpASel} {s : State} (h : s.flt = false) (ha : opAReadable asel s = true)
    {f : Word → Executed} {c : Cause} (hf : f (opA asel s) = .fault c) :
    perform asel s f = .next (takeFault c s) := by
  simp [perform, h, ha, hf, raiseFault]

/-- The operation of an accepted command that faults on no value writes its result. -/
theorem performValue_eq {asel : OpASel} {s : State} (h : s.flt = false) (ha : opAReadable asel s = true)
    (f : Word → Word) : performValue asel s f = .next (writeR (f (opA asel s)) s) :=
  perform_value h ha rfl

/-- What a meaning can answer: the command is ignored, faults, or is performed (60_exceptions.md R94). -/
def Answers (o : Host.Outcome State Fault Refusal) (s : State) : Prop :=
  (s.flt = true ∧ o = .next s) ∨
  (s.flt = false ∧ ∃ c, o = .next (takeFault c s)) ∨
  (s.flt = false ∧ ∃ v, o = .next (writeR v s))

theorem raiseFault_answers (c : Cause) (s : State) : Answers (raiseFault c s) s := by
  unfold Answers raiseFault
  cases h : s.flt <;> simp
  exact .inl ⟨c, rfl⟩

theorem perform_answers (asel : OpASel) (s : State) (f : Word → Executed) : Answers (perform asel s f) s := by
  cases h : s.flt
  · cases ha : opAReadable asel s
    · exact .inr (.inl ⟨h, _, perform_unwritten h ha f⟩)
    · cases hf : f (opA asel s) with
      | value v => exact .inr (.inr ⟨h, v, perform_value h ha hf⟩)
      | fault c => exact .inr (.inl ⟨h, c, perform_fault h ha hf⟩)
  · exact .inl ⟨h, perform_ignored h asel f⟩

/-- The spec's `execute(op, a, B, C, sh)` (10_state.md R23): an instruction's operation on its operands' values. -/
def operation : Instr → Word → Word → Word → Executed
  | .mov _, a, _, _ => .value (mov a)
  | .add32 _, a, b, _ => .value (add32 a b)
  | .sub32 _, a, b, _ => .value (sub32 a b)
  | .neg32 _, a, _, _ => .value (neg32 a)
  | .abs32 _, a, _, _ => .value (abs32 a)
  | .max32 _, a, b, _ => .value (max32 a b)
  | .min32 _, a, b, _ => .value (min32 a b)
  | .div32 _, a, b, _ => div32 a b
  | .and32 _, a, b, _ => .value (and32 a b)
  | .or32 _, a, b, _ => .value (or32 a b)
  | .xor32 _, a, b, _ => .value (xor32 a b)
  | .clz32 _, a, _, _ => .value (clz32 a)
  | .rand _, a, _, _ => .value (rand a)
  | .addSat32 _, a, b, _ => .value (addSat32 a b)
  | .subSat32 _, a, b, _ => .value (subSat32 a b)
  | .addPosSat32 _, a, b, _ => .value (addPosSat32 a b)
  | .addSat16 _, a, b, _ => .value (addSat16 a b)
  | .subSat16 _, a, b, _ => .value (subSat16 a b)
  | .sat16 _, a, _, _ => .value (sat16Word a)
  | .limit32 _, a, b, c => .value (limit32 a b c)
  | .lshiftSat32 _ sh, a, _, _ => .value (lshiftSat32 a sh)
  | .rshiftRound _ sh, a, _, _ => .value (rshiftRound a sh)
  | .lshift32 _ sh, a, _, _ => .value (lshift32 a sh)
  | .rshift32 _ sh, a, _, _ => .value (rshift32 a sh)
  | .rshiftUint32 _ sh, a, _, _ => .value (rshiftUint32 a sh)
  | .addLshift32 _ sh, a, b, _ => .value (addLshift32 a b sh)
  | .addRshift32 _ sh, a, b, _ => .value (addRshift32 a b sh)
  | .subLshift32 _ sh, a, b, _ => .value (subLshift32 a b sh)
  | .subRshift32 _ sh, a, b, _ => .value (subRshift32 a b sh)
  | .smulbb _, a, b, _ => .value (smulbb a b)
  | .smlabb _, a, b, c => .value (smlabb a b c)
  | .smulbt _, a, b, _ => .value (smulbt a b)
  | .smlabt _, a, b, c => .value (smlabt a b c)
  | .smulwb _, a, b, _ => .value (smulwb a b)
  | .smlawb _, a, b, c => .value (smlawb a b c)
  | .smulwt _, a, b, _ => .value (smulwt a b)
  | .smlawt _, a, b, c => .value (smlawt a b c)
  | .smulww _, a, b, _ => .value (smulww a b)
  | .smlaww _, a, b, c => .value (smlaww a b c)
  | .mul32 _, a, b, _ => .value (mul32 a b)
  | .mla32 _, a, b, c => .value (mla32 a b c)

/-- Every meaning of a well-formed instruction performs its operation on the first operand its `ASEL` selects and on ports
`B` and `C`. -/
theorem exec_eq_perform (i : Instr) (hi : i.wellFormed = true) (s : State) :
    exec i s = perform i.asel s fun a => operation i a s.ports.b s.ports.c := by
  cases i with
  | rshiftRound asel sh =>
    have hsh : sh ≠ 0#5 := by simpa [Instr.wellFormed] using hi
    simp only [exec, execRshiftRound, hsh, if_false, performValue, operation, Instr.asel]
  | _ => rfl

/-- Only DIV32 by zero faults on its operands' values (60_exceptions.md R96). -/
theorem operation_cases (i : Instr) (a b c : Word) :
    (∃ v, operation i a b c = .value v) ∨ ((∃ asel, i = .div32 asel) ∧ b = 0#32 ∧ operation i a b c = .fault .divZero) := by
  cases i with
  | div32 asel =>
    by_cases hb : s32 b = 0
    · exact .inr ⟨⟨asel, rfl⟩, by rw [← BitVec.ofInt_toInt (x := b)]; exact congrArg _ hb, by simp [operation, div32, hb]⟩
    · exact .inl ⟨_, by simp only [operation, div32, hb, if_false]; rfl⟩
  | _ => exact .inl ⟨_, rfl⟩

/-- Every meaning answers so: none stops the machine. -/
theorem exec_answers (i : Instr) (s : State) : Answers (exec i s) s := by
  cases hi : i.wellFormed
  · cases i with
    | rshiftRound asel sh =>
      have hsh : sh = 0#5 := by simpa [Instr.wellFormed] using hi
      simp only [exec, execRshiftRound, hsh, if_true]
      exact raiseFault_answers _ s
    | _ => cases hi
  · exact exec_eq_perform i hi s ▸ perform_answers _ s _

/-! ## Issuing a command and stepping -/

/-- What issuing a command can do. -/
theorem issue_cases (c : Command) (s : State) :
    (s.flt = true ∧ issue exec c s = .next s) ∨
    (s.flt = false ∧ ∃ e, issue exec c s = .next (takeFault e (sample c.ports s))) ∨
    (s.flt = false ∧ ∃ v, issue exec c s = .next (writeR v (sample c.ports s))) := by
  cases h : s.flt
  · have hs : (sample c.ports s).flt = false := h
    cases hd : decode c.word with
    | fault e => exact .inr (.inl ⟨rfl, e, by simp [issue, h, hd, raiseFault_eq hs]⟩)
    | ok i =>
      have hi : issue exec c s = exec i (sample c.ports s) := by simp [issue, h, hd]
      rw [hi]
      rcases exec_answers i (sample c.ports s) with ⟨hf, _⟩ | ⟨_, e, he⟩ | ⟨_, v, hv⟩
      · simp [h] at hf
      · exact .inr (.inl ⟨rfl, e, he⟩)
      · exact .inr (.inr ⟨rfl, v, hv⟩)
  · exact .inl ⟨rfl, by simp [issue, h]⟩

/-- With nothing pending the state is held. -/
theorem step_idle {s : State} (h : s.pending = []) : step s = .next s := by
  simp [step, advance, h]

/-- With something pending, a step is that action of the host. -/
theorem step_act {s : State} {h : HostAction} {rest : List HostAction} (hp : s.pending = h :: rest) :
    step s = act exec h { s with pending := rest } := by
  simp [step, advance, hp]

/-- Every action of the host completes. -/
theorem act_next (h : HostAction) (s : State) : ∃ t, act exec h s = .next t := by
  cases h with
  | issue c =>
    rcases issue_cases c s with ⟨_, h⟩ | ⟨_, e, h⟩ | ⟨_, v, h⟩
    · exact ⟨_, h⟩
    · exact ⟨_, h⟩
    · exact ⟨_, h⟩
  | reset => exact ⟨_, rfl⟩
  | resetDuring c => exact ⟨_, rfl⟩
  | readR => exact ⟨_, rfl⟩
  | readStatus => exact ⟨_, rfl⟩

end Sys2Proof.Machine
end

