-- ==== Sys2Proof/Laws/PerInstr.lean ====
section
/-! SUPPORT. What holds of the encoding of every instruction, one lemma per constructor. -/

namespace Sys2Proof.Laws.EncodingFields

/-- The fields of an instruction's word are its own and the reserved bits are clear (30_encoding.md R36). -/
def Statement (i : Instr) : Prop :=
  opField (encode i) = i.opcode ∧ aselField (encode i) = i.asel ∧ shField (encode i) = i.sh ∧
    reservedClear (encode i) = true

theorem mov (asel : OpASel) : Statement (.mov asel) := Encoding.fields_encode _
theorem add32 (asel : OpASel) : Statement (.add32 asel) := Encoding.fields_encode _
theorem sub32 (asel : OpASel) : Statement (.sub32 asel) := Encoding.fields_encode _
theorem neg32 (asel : OpASel) : Statement (.neg32 asel) := Encoding.fields_encode _
theorem abs32 (asel : OpASel) : Statement (.abs32 asel) := Encoding.fields_encode _
theorem max32 (asel : OpASel) : Statement (.max32 asel) := Encoding.fields_encode _
theorem min32 (asel : OpASel) : Statement (.min32 asel) := Encoding.fields_encode _
theorem div32 (asel : OpASel) : Statement (.div32 asel) := Encoding.fields_encode _
theorem and32 (asel : OpASel) : Statement (.and32 asel) := Encoding.fields_encode _
theorem or32 (asel : OpASel) : Statement (.or32 asel) := Encoding.fields_encode _
theorem xor32 (asel : OpASel) : Statement (.xor32 asel) := Encoding.fields_encode _
theorem clz32 (asel : OpASel) : Statement (.clz32 asel) := Encoding.fields_encode _
theorem rand (asel : OpASel) : Statement (.rand asel) := Encoding.fields_encode _
theorem addSat32 (asel : OpASel) : Statement (.addSat32 asel) := Encoding.fields_encode _
theorem subSat32 (asel : OpASel) : Statement (.subSat32 asel) := Encoding.fields_encode _
theorem addPosSat32 (asel : OpASel) : Statement (.addPosSat32 asel) := Encoding.fields_encode _
theorem addSat16 (asel : OpASel) : Statement (.addSat16 asel) := Encoding.fields_encode _
theorem subSat16 (asel : OpASel) : Statement (.subSat16 asel) := Encoding.fields_encode _
theorem sat16 (asel : OpASel) : Statement (.sat16 asel) := Encoding.fields_encode _
theorem limit32 (asel : OpASel) : Statement (.limit32 asel) := Encoding.fields_encode _
theorem lshiftSat32 (asel : OpASel) (sh : Shift) : Statement (.lshiftSat32 asel sh) := Encoding.fields_encode _
theorem rshiftRound (asel : OpASel) (sh : Shift) : Statement (.rshiftRound asel sh) := Encoding.fields_encode _
theorem lshift32 (asel : OpASel) (sh : Shift) : Statement (.lshift32 asel sh) := Encoding.fields_encode _
theorem rshift32 (asel : OpASel) (sh : Shift) : Statement (.rshift32 asel sh) := Encoding.fields_encode _
theorem rshiftUint32 (asel : OpASel) (sh : Shift) : Statement (.rshiftUint32 asel sh) := Encoding.fields_encode _
theorem addLshift32 (asel : OpASel) (sh : Shift) : Statement (.addLshift32 asel sh) := Encoding.fields_encode _
theorem addRshift32 (asel : OpASel) (sh : Shift) : Statement (.addRshift32 asel sh) := Encoding.fields_encode _
theorem subLshift32 (asel : OpASel) (sh : Shift) : Statement (.subLshift32 asel sh) := Encoding.fields_encode _
theorem subRshift32 (asel : OpASel) (sh : Shift) : Statement (.subRshift32 asel sh) := Encoding.fields_encode _
theorem smulbb (asel : OpASel) : Statement (.smulbb asel) := Encoding.fields_encode _
theorem smlabb (asel : OpASel) : Statement (.smlabb asel) := Encoding.fields_encode _
theorem smulbt (asel : OpASel) : Statement (.smulbt asel) := Encoding.fields_encode _
theorem smlabt (asel : OpASel) : Statement (.smlabt asel) := Encoding.fields_encode _
theorem smulwb (asel : OpASel) : Statement (.smulwb asel) := Encoding.fields_encode _
theorem smlawb (asel : OpASel) : Statement (.smlawb asel) := Encoding.fields_encode _
theorem smulwt (asel : OpASel) : Statement (.smulwt asel) := Encoding.fields_encode _
theorem smlawt (asel : OpASel) : Statement (.smlawt asel) := Encoding.fields_encode _
theorem smulww (asel : OpASel) : Statement (.smulww asel) := Encoding.fields_encode _
theorem smlaww (asel : OpASel) : Statement (.smlaww asel) := Encoding.fields_encode _
theorem mul32 (asel : OpASel) : Statement (.mul32 asel) := Encoding.fields_encode _
theorem mla32 (asel : OpASel) : Statement (.mla32 asel) := Encoding.fields_encode _

end Sys2Proof.Laws.EncodingFields
end

