-- ==== Sys2Proof/Tests/Slice0.lean ====
section
/-! SUPPORT. The session's own tests: what is ill formed, one word written out bit by bit for every constructor, at most two
steps for every instruction with results from 95_test_vectors.md, and for every statement with hypotheses states and operands
that meet them. -/

namespace Sys2Proof.Tests


open Sys2Proof Sys2Proof.Machine

/-! ## Well-formedness -/

/-- A shift by 0 is no RSHIFT_ROUND (30_encoding.md R38, R42). -/
theorem test_wellFormed_refuses_rshiftRound_by_0 :
    (Instr.rshiftRound .portA 0#5).wellFormed = false ∧ (Instr.rshiftRound .regR 0#5).wellFormed = false := by decide

/-- The ends of its range, and a shift by 0 in another CMD-S operation, are well formed. -/
theorem test_wellFormed_accepts :
    (Instr.rshiftRound .portA 1#5).wellFormed = true ∧ (Instr.rshiftRound .regR 31#5).wellFormed = true ∧
    (Instr.lshiftSat32 .portA 0#5).wellFormed = true := by decide

/-! ## Decoding, one word for every constructor

Bits 31:13 zero, `SH` = bits 12:8, bit 7 zero, `ASEL` = bit 6, `OP` = bits 5:0 (30_encoding.md R36, R40). -/

theorem test_decode_mov : decode 0b0000000000000000000_00000_0_0_000001#32 = .ok (.mov .portA) := by decide
theorem test_decode_add32 : decode 0b0000000000000000000_00000_0_1_000010#32 = .ok (.add32 .regR) := by decide
theorem test_decode_sub32 : decode 0b0000000000000000000_00000_0_0_000011#32 = .ok (.sub32 .portA) := by decide
theorem test_decode_neg32 : decode 0b0000000000000000000_00000_0_1_000100#32 = .ok (.neg32 .regR) := by decide
theorem test_decode_abs32 : decode 0b0000000000000000000_00000_0_0_000101#32 = .ok (.abs32 .portA) := by decide
theorem test_decode_max32 : decode 0b0000000000000000000_00000_0_1_000110#32 = .ok (.max32 .regR) := by decide
theorem test_decode_min32 : decode 0b0000000000000000000_00000_0_0_000111#32 = .ok (.min32 .portA) := by decide
theorem test_decode_div32 : decode 0b0000000000000000000_00000_0_1_001000#32 = .ok (.div32 .regR) := by decide
theorem test_decode_and32 : decode 0b0000000000000000000_00000_0_0_001001#32 = .ok (.and32 .portA) := by decide
theorem test_decode_or32 : decode 0b0000000000000000000_00000_0_1_001010#32 = .ok (.or32 .regR) := by decide
theorem test_decode_xor32 : decode 0b0000000000000000000_00000_0_0_001011#32 = .ok (.xor32 .portA) := by decide
theorem test_decode_clz32 : decode 0b0000000000000000000_00000_0_1_001100#32 = .ok (.clz32 .regR) := by decide
theorem test_decode_rand : decode 0b0000000000000000000_00000_0_0_001101#32 = .ok (.rand .portA) := by decide
theorem test_decode_addSat32 : decode 0b0000000000000000000_00000_0_1_010000#32 = .ok (.addSat32 .regR) := by decide
theorem test_decode_subSat32 : decode 0b0000000000000000000_00000_0_0_010001#32 = .ok (.subSat32 .portA) := by decide
theorem test_decode_addPosSat32 : decode 0b0000000000000000000_00000_0_1_010010#32 = .ok (.addPosSat32 .regR) := by decide
theorem test_decode_addSat16 : decode 0b0000000000000000000_00000_0_0_010011#32 = .ok (.addSat16 .portA) := by decide
theorem test_decode_subSat16 : decode 0b0000000000000000000_00000_0_1_010100#32 = .ok (.subSat16 .regR) := by decide
theorem test_decode_sat16 : decode 0b0000000000000000000_00000_0_0_010101#32 = .ok (.sat16 .portA) := by decide
theorem test_decode_limit32 : decode 0b0000000000000000000_00000_0_1_010110#32 = .ok (.limit32 .regR) := by decide
theorem test_decode_lshiftSat32 : decode 0b0000000000000000000_10011_0_0_010111#32 = .ok (.lshiftSat32 .portA 19#5) := by decide
theorem test_decode_rshiftRound : decode 0b0000000000000000000_01101_0_1_011000#32 = .ok (.rshiftRound .regR 13#5) := by decide
theorem test_decode_lshift32 : decode 0b0000000000000000000_00001_0_0_011001#32 = .ok (.lshift32 .portA 1#5) := by decide
theorem test_decode_rshift32 : decode 0b0000000000000000000_11110_0_1_011010#32 = .ok (.rshift32 .regR 30#5) := by decide
theorem test_decode_rshiftUint32 : decode 0b0000000000000000000_10011_0_0_011011#32 = .ok (.rshiftUint32 .portA 19#5) := by decide
theorem test_decode_addLshift32 : decode 0b0000000000000000000_01101_0_1_011100#32 = .ok (.addLshift32 .regR 13#5) := by decide
theorem test_decode_addRshift32 : decode 0b0000000000000000000_00001_0_0_011101#32 = .ok (.addRshift32 .portA 1#5) := by decide
theorem test_decode_subLshift32 : decode 0b0000000000000000000_11110_0_1_011110#32 = .ok (.subLshift32 .regR 30#5) := by decide
theorem test_decode_subRshift32 : decode 0b0000000000000000000_10011_0_0_011111#32 = .ok (.subRshift32 .portA 19#5) := by decide
theorem test_decode_smulbb : decode 0b0000000000000000000_00000_0_1_100000#32 = .ok (.smulbb .regR) := by decide
theorem test_decode_smlabb : decode 0b0000000000000000000_00000_0_0_100001#32 = .ok (.smlabb .portA) := by decide
theorem test_decode_smulbt : decode 0b0000000000000000000_00000_0_1_100010#32 = .ok (.smulbt .regR) := by decide
theorem test_decode_smlabt : decode 0b0000000000000000000_00000_0_0_100011#32 = .ok (.smlabt .portA) := by decide
theorem test_decode_smulwb : decode 0b0000000000000000000_00000_0_1_100100#32 = .ok (.smulwb .regR) := by decide
theorem test_decode_smlawb : decode 0b0000000000000000000_00000_0_0_100101#32 = .ok (.smlawb .portA) := by decide
theorem test_decode_smulwt : decode 0b0000000000000000000_00000_0_1_100110#32 = .ok (.smulwt .regR) := by decide
theorem test_decode_smlawt : decode 0b0000000000000000000_00000_0_0_100111#32 = .ok (.smlawt .portA) := by decide
theorem test_decode_smulww : decode 0b0000000000000000000_00000_0_1_101000#32 = .ok (.smulww .regR) := by decide
theorem test_decode_smlaww : decode 0b0000000000000000000_00000_0_0_101001#32 = .ok (.smlaww .portA) := by decide
theorem test_decode_mul32 : decode 0b0000000000000000000_00000_0_1_101010#32 = .ok (.mul32 .regR) := by decide
theorem test_decode_mla32 : decode 0b0000000000000000000_00000_0_0_101011#32 = .ok (.mla32 .portA) := by decide

/-- Illegal and reserved words, and which cause comes first (95_test_vectors.md V182 to V192, V199). -/
theorem test_decode_faults :
    decode 0x00000000#32 = .fault .illegalOp ∧ decode 0x0000000E#32 = .fault .illegalOp ∧
    decode 0x0000003F#32 = .fault .illegalOp ∧ decode 0x0000008E#32 = .fault .illegalOp ∧
    decode 0x00000090#32 = .fault .reservedField ∧ decode 0x00002010#32 = .fault .reservedField ∧
    decode 0x80000010#32 = .fault .reservedField ∧ decode 0x00000110#32 = .fault .reservedField ∧
    decode 0x000001D0#32 = .fault .reservedField ∧ decode 0x00000018#32 = .fault .badShift ∧
    decode 0x00000058#32 = .fault .badShift ∧ decode 0x00000040#32 = .fault .illegalOp := by decide

/-- The last assigned and the first unassigned `OP` of the map's end (30_encoding.md R40). -/
theorem test_decode_map_end : decode 0x0000002B#32 = .ok (.mla32 .portA) ∧ decode 0x0000002C#32 = .fault .illegalOp := by decide

/-- The host's question about a row: MLA32 of 32 bits, and a row of all zero bits. -/
theorem test_decodeTableWord : decodeTableWord 32 0x2B = some (.mla32 .portA) ∧ decodeTableWord 32 0 = none := by decide

/-! ## Steps -/

/-- A unit about to be given one command, or asked one other thing. -/
def unit (r : Word) (rv flt : Bool) (cause : BitVec 4) (h : HostAction) : State where
  r := r
  rv := rv
  flt := flt
  cause := cause
  ports := ⟨0#32, 0#32, 0#32⟩
  pending := [h]
  reads := []
  resets := 0

/-- A command. -/
def cmd (w a b c : Word) : HostAction := .issue ⟨w, ⟨a, b, c⟩⟩

/-- `R` and `STATUS` after a step. -/
def after (s : State) : Option (Word × Word) :=
  match step s with
  | .next t => some (t.r, status t)
  | .fault _ => none
  | .refused _ => none

/-- A command to a unit whose `R` is unwritten (it holds a number no result is). -/
def first (w a b c : Word) : Option (Word × Word) := after (unit 0xDEADBEEF#32 false false 0#4 (cmd w a b c))

/-- A command to a unit whose `R` holds a result. -/
def next (r w a b c : Word) : Option (Word × Word) := after (unit r true false 0#4 (cmd w a b c))

/-- V138: `MOV #0x12345678`. -/
theorem test_mov_V138 :
    first 0x00000001#32 0x12345678#32 0x00000000#32 0x00000000#32 = some (0x12345678#32, 0x00000001#32) := by decide
/-- V139: `MOV R`. -/
theorem test_mov_V139 :
    next 0xFFFFFFF7#32 0x00000041#32 0xAAAAAAAA#32 0x00000000#32 0x00000000#32 = some (0xFFFFFFF7#32, 0x00000001#32) := by decide
/-- V140: `ADD32 #-5, #12`. -/
theorem test_add32_V140 :
    first 0x00000002#32 0xFFFFFFFB#32 0x0000000C#32 0x00000000#32 = some (0x00000007#32, 0x00000001#32) := by decide
/-- V141: `ADD32 #0x7FFFFFFF, #1`. -/
theorem test_add32_V141 :
    first 0x00000002#32 0x7FFFFFFF#32 0x00000001#32 0x00000000#32 = some (0x80000000#32, 0x00000001#32) := by decide
/-- V143: `SUB32 #5, #12`. -/
theorem test_sub32_V143 :
    first 0x00000003#32 0x00000005#32 0x0000000C#32 0x00000000#32 = some (0xFFFFFFF9#32, 0x00000001#32) := by decide
/-- V145: `SUB32 #0, #0x80000000`. -/
theorem test_sub32_V145 :
    first 0x00000003#32 0x00000000#32 0x80000000#32 0x00000000#32 = some (0x80000000#32, 0x00000001#32) := by decide
/-- V146: `NEG32 #0x08000000`. -/
theorem test_neg32_V146 :
    first 0x00000004#32 0x08000000#32 0x00000000#32 0x00000000#32 = some (0xF8000000#32, 0x00000001#32) := by decide
/-- V147: `NEG32 #0x80000000`. -/
theorem test_neg32_V147 :
    first 0x00000004#32 0x80000000#32 0x00000000#32 0x00000000#32 = some (0x80000000#32, 0x00000001#32) := by decide
/-- V149: `ABS32 #-1234`. -/
theorem test_abs32_V149 :
    first 0x00000005#32 0xFFFFFB2E#32 0x00000000#32 0x00000000#32 = some (0x000004D2#32, 0x00000001#32) := by decide
/-- V150: `ABS32 #0x80000000`. -/
theorem test_abs32_V150 :
    first 0x00000005#32 0x80000000#32 0x00000000#32 0x00000000#32 = some (0x80000000#32, 0x00000001#32) := by decide
/-- V153: `MAX32 #3, #100`. -/
theorem test_max32_V153 :
    first 0x00000006#32 0x00000003#32 0x00000064#32 0x00000000#32 = some (0x00000064#32, 0x00000001#32) := by decide
/-- V154: `MAX32 #-1, #0`. -/
theorem test_max32_V154 :
    first 0x00000006#32 0xFFFFFFFF#32 0x00000000#32 0x00000000#32 = some (0x00000000#32, 0x00000001#32) := by decide
/-- V155: `MIN32 #-3, #2`. -/
theorem test_min32_V155 :
    first 0x00000007#32 0xFFFFFFFD#32 0x00000002#32 0x00000000#32 = some (0xFFFFFFFD#32, 0x00000001#32) := by decide
/-- V156: `MIN32 #0x80000000, #0x7FFFFFFF`. -/
theorem test_min32_V156 :
    first 0x00000007#32 0x80000000#32 0x7FFFFFFF#32 0x00000000#32 = some (0x80000000#32, 0x00000001#32) := by decide
/-- V160: `DIV32 #7, #-2`. -/
theorem test_div32_V160 :
    first 0x00000008#32 0x00000007#32 0xFFFFFFFE#32 0x00000000#32 = some (0xFFFFFFFD#32, 0x00000001#32) := by decide
/-- V162: `DIV32 #0x80000000, #-1`. -/
theorem test_div32_V162 :
    first 0x00000008#32 0x80000000#32 0xFFFFFFFF#32 0x00000000#32 = some (0x80000000#32, 0x00000001#32) := by decide
/-- V166: `AND32 #0xF8000000, #16383`. -/
theorem test_and32_V166 :
    first 0x00000009#32 0xF8000000#32 0x00003FFF#32 0x00000000#32 = some (0x00000000#32, 0x00000001#32) := by decide
/-- V168: `AND32 #-100, #63`. -/
theorem test_and32_V168 :
    first 0x00000009#32 0xFFFFFF9C#32 0x0000003F#32 0x00000000#32 = some (0x0000001C#32, 0x00000001#32) := by decide
/-- V169: `OR32 #240, #3840`. -/
theorem test_or32_V169 :
    first 0x0000000A#32 0x000000F0#32 0x00000F00#32 0x00000000#32 = some (0x00000FF0#32, 0x00000001#32) := by decide
/-- V170: `OR32 #4660, #-1`. -/
theorem test_or32_V170 :
    first 0x0000000A#32 0x00001234#32 0xFFFFFFFF#32 0x00000000#32 = some (0xFFFFFFFF#32, 0x00000001#32) := by decide
/-- V171: `XOR32 #65535, #-1`. -/
theorem test_xor32_V171 :
    first 0x0000000B#32 0x0000FFFF#32 0xFFFFFFFF#32 0x00000000#32 = some (0xFFFF0000#32, 0x00000001#32) := by decide
/-- V172: `XOR32 #23130, #23130`. -/
theorem test_xor32_V172 :
    first 0x0000000B#32 0x00005A5A#32 0x00005A5A#32 0x00000000#32 = some (0x00000000#32, 0x00000001#32) := by decide
/-- V173: `CLZ32 #0x00012345`. -/
theorem test_clz32_V173 :
    first 0x0000000C#32 0x00012345#32 0x00000000#32 0x00000000#32 = some (0x0000000F#32, 0x00000001#32) := by decide
/-- V174: `CLZ32 #0`. -/
theorem test_clz32_V174 :
    first 0x0000000C#32 0x00000000#32 0x00000000#32 0x00000000#32 = some (0x00000020#32, 0x00000001#32) := by decide
/-- V179: `RAND #1`. -/
theorem test_rand_V179 :
    first 0x0000000D#32 0x00000001#32 0x00000000#32 0x00000000#32 = some (0x41CCE7A0#32, 0x00000001#32) := by decide
/-- V181: `RAND #-1`. -/
theorem test_rand_V181 :
    first 0x0000000D#32 0xFFFFFFFF#32 0x00000000#32 0x00000000#32 = some (0x2A65DF36#32, 0x00000001#32) := by decide
/-- V2: `ADD_SAT32 #0x80000000, #-1`. -/
theorem test_addSat32_V2 :
    first 0x00000010#32 0x80000000#32 0xFFFFFFFF#32 0x00000000#32 = some (0x80000000#32, 0x00000001#32) := by decide
/-- V7: `ADD_SAT32 R, #256`. -/
theorem test_addSat32_V7 :
    next 0x7FFFFF00#32 0x00000050#32 0xAAAAAAAA#32 0x00000100#32 0x00000000#32 = some (0x7FFFFFFF#32, 0x00000001#32) := by decide
/-- V9: `SUB_SAT32 #0, #0x80000000`. -/
theorem test_subSat32_V9 :
    first 0x00000011#32 0x00000000#32 0x80000000#32 0x00000000#32 = some (0x7FFFFFFF#32, 0x00000001#32) := by decide
/-- V13: `SUB_SAT32 R, #0x7FFFFFFF`. -/
theorem test_subSat32_V13 :
    next 0xFFFFFFFB#32 0x00000051#32 0xAAAAAAAA#32 0x7FFFFFFF#32 0x00000000#32 = some (0x80000000#32, 0x00000001#32) := by decide
/-- V16: `ADD_POS_SAT32 #-1, #0`. -/
theorem test_addPosSat32_V16 :
    first 0x00000012#32 0xFFFFFFFF#32 0x00000000#32 0x00000000#32 = some (0x7FFFFFFF#32, 0x00000001#32) := by decide
/-- V17: `ADD_POS_SAT32 #0x80000000, #0x80000000`. -/
theorem test_addPosSat32_V17 :
    first 0x00000012#32 0x80000000#32 0x80000000#32 0x00000000#32 = some (0x00000000#32, 0x00000001#32) := by decide
/-- V22: `ADD_SAT16 #-32768, #-32768`. -/
theorem test_addSat16_V22 :
    first 0x00000013#32 0xFFFF8000#32 0xFFFF8000#32 0x00000000#32 = some (0xFFFF8000#32, 0x00000001#32) := by decide
/-- V24: `ADD_SAT16 #0x12347FFF, #0xABCD0001`. -/
theorem test_addSat16_V24 :
    first 0x00000013#32 0x12347FFF#32 0xABCD0001#32 0x00000000#32 = some (0x00007FFF#32, 0x00000001#32) := by decide
/-- V27: `SUB_SAT16 #-1, #32767`. -/
theorem test_subSat16_V27 :
    first 0x00000014#32 0xFFFFFFFF#32 0x00007FFF#32 0x00000000#32 = some (0xFFFF8000#32, 0x00000001#32) := by decide
/-- V28: `SUB_SAT16 #32768, #1`. -/
theorem test_subSat16_V28 :
    first 0x00000014#32 0x00008000#32 0x00000001#32 0x00000000#32 = some (0xFFFF8000#32, 0x00000001#32) := by decide
/-- V35: `SAT16 #-32769`. -/
theorem test_sat16_V35 :
    first 0x00000015#32 0xFFFF7FFF#32 0x00000000#32 0x00000000#32 = some (0xFFFF8000#32, 0x00000001#32) := by decide
/-- V39: `SAT16 R`. -/
theorem test_sat16_V39 :
    next 0x00012345#32 0x00000055#32 0xAAAAAAAA#32 0x00000000#32 0x00000000#32 = some (0x00007FFF#32, 0x00000001#32) := by decide
/-- V41: `LIMIT32 #5, #1000, #100`. -/
theorem test_limit32_V41 :
    first 0x00000016#32 0x00000005#32 0x000003E8#32 0x00000064#32 = some (0x00000064#32, 0x00000001#32) := by decide
/-- V45: `LIMIT32 #0x80000000, #0x80000000, #0x7FFFFFFF`. -/
theorem test_limit32_V45 :
    first 0x00000016#32 0x80000000#32 0x80000000#32 0x7FFFFFFF#32 = some (0x80000000#32, 0x00000001#32) := by decide
/-- V47: `LSHIFT_SAT32 #0x40000000, sh=1`. -/
theorem test_lshiftSat32_V47 :
    first 0x00000117#32 0x40000000#32 0x00000000#32 0x00000000#32 = some (0x7FFFFFFE#32, 0x00000001#32) := by decide
/-- V55: `LSHIFT_SAT32 #0xBFFFFFFF, sh=1`. -/
theorem test_lshiftSat32_V55 :
    first 0x00000117#32 0xBFFFFFFF#32 0x00000000#32 0x00000000#32 = some (0x80000000#32, 0x00000001#32) := by decide
/-- V57: `RSHIFT_ROUND #-3, sh=1`. -/
theorem test_rshiftRound_V57 :
    first 0x00000118#32 0xFFFFFFFD#32 0x00000000#32 0x00000000#32 = some (0xFFFFFFFF#32, 0x00000001#32) := by decide
/-- V59: `RSHIFT_ROUND #0x7FFFFFFF, sh=1`. -/
theorem test_rshiftRound_V59 :
    first 0x00000118#32 0x7FFFFFFF#32 0x00000000#32 0x00000000#32 = some (0x40000000#32, 0x00000001#32) := by decide
/-- V67: `LSHIFT32 #4660, sh=8`. -/
theorem test_lshift32_V67 :
    first 0x00000819#32 0x00001234#32 0x00000000#32 0x00000000#32 = some (0x00123400#32, 0x00000001#32) := by decide
/-- V69: `LSHIFT32 #0x40000000, sh=1`. -/
theorem test_lshift32_V69 :
    first 0x00000119#32 0x40000000#32 0x00000000#32 0x00000000#32 = some (0x80000000#32, 0x00000001#32) := by decide
/-- V72: `RSHIFT32 #0xF8000000, sh=14`. -/
theorem test_rshift32_V72 :
    first 0x00000E1A#32 0xF8000000#32 0x00000000#32 0x00000000#32 = some (0xFFFFE000#32, 0x00000001#32) := by decide
/-- V76: `RSHIFT32 #-3, sh=1`. -/
theorem test_rshift32_V76 :
    first 0x0000011A#32 0xFFFFFFFD#32 0x00000000#32 0x00000000#32 = some (0xFFFFFFFE#32, 0x00000001#32) := by decide
/-- V77: `RSHIFT_UINT32 #0xF0000000, sh=4`. -/
theorem test_rshiftUint32_V77 :
    first 0x0000041B#32 0xF0000000#32 0x00000000#32 0x00000000#32 = some (0x0F000000#32, 0x00000001#32) := by decide
/-- V78: `RSHIFT_UINT32 #0x80000000, sh=31`. -/
theorem test_rshiftUint32_V78 :
    first 0x00001F1B#32 0x80000000#32 0x00000000#32 0x00000000#32 = some (0x00000001#32, 0x00000001#32) := by decide
/-- V81: `ADD_LSHIFT32 #100, #3, sh=4`. -/
theorem test_addLshift32_V81 :
    first 0x0000041C#32 0x00000064#32 0x00000003#32 0x00000000#32 = some (0x00000094#32, 0x00000001#32) := by decide
/-- V83: `ADD_LSHIFT32 #0, #1, sh=31`. -/
theorem test_addLshift32_V83 :
    first 0x00001F1C#32 0x00000000#32 0x00000001#32 0x00000000#32 = some (0x80000000#32, 0x00000001#32) := by decide
/-- V84: `ADD_RSHIFT32 #1000, #-256, sh=4`. -/
theorem test_addRshift32_V84 :
    first 0x0000041D#32 0x000003E8#32 0xFFFFFF00#32 0x00000000#32 = some (0x000003D8#32, 0x00000001#32) := by decide
/-- V87: `ADD_RSHIFT32 #0x7FFFFFFF, #2, sh=1`. -/
theorem test_addRshift32_V87 :
    first 0x0000011D#32 0x7FFFFFFF#32 0x00000002#32 0x00000000#32 = some (0x80000000#32, 0x00000001#32) := by decide
/-- V88: `SUB_LSHIFT32 #100, #3, sh=4`. -/
theorem test_subLshift32_V88 :
    first 0x0000041E#32 0x00000064#32 0x00000003#32 0x00000000#32 = some (0x00000034#32, 0x00000001#32) := by decide
/-- V89: `SUB_LSHIFT32 #0, #1, sh=31`. -/
theorem test_subLshift32_V89 :
    first 0x00001F1E#32 0x00000000#32 0x00000001#32 0x00000000#32 = some (0x80000000#32, 0x00000001#32) := by decide
/-- V91: `SUB_RSHIFT32 #1000, #-256, sh=4`. -/
theorem test_subRshift32_V91 :
    first 0x0000041F#32 0x000003E8#32 0xFFFFFF00#32 0x00000000#32 = some (0x000003F8#32, 0x00000001#32) := by decide
/-- V92: `SUB_RSHIFT32 #0, #-1, sh=31`. -/
theorem test_subRshift32_V92 :
    first 0x00001F1F#32 0x00000000#32 0xFFFFFFFF#32 0x00000000#32 = some (0x00000001#32, 0x00000001#32) := by decide
/-- V96: `SMULBB #32768, #32767`. -/
theorem test_smulbb_V96 :
    first 0x00000020#32 0x00008000#32 0x00007FFF#32 0x00000000#32 = some (0xC0008000#32, 0x00000001#32) := by decide
/-- V97: `SMULBB #0x7FFF0002, #0x80000003`. -/
theorem test_smulbb_V97 :
    first 0x00000020#32 0x7FFF0002#32 0x80000003#32 0x00000000#32 = some (0x00000006#32, 0x00000001#32) := by decide
/-- V100: `SMLABB #0x40000000, #32768, #32768`. -/
theorem test_smlabb_V100 :
    first 0x00000021#32 0x40000000#32 0x00008000#32 0x00008000#32 = some (0x80000000#32, 0x00000001#32) := by decide
/-- V101: `SMLABB R, #10, #5`. -/
theorem test_smlabb_V101 :
    next 0xFFFFFFCE#32 0x00000061#32 0xAAAAAAAA#32 0x0000000A#32 0x00000005#32 = some (0x00000000#32, 0x00000001#32) := by decide
/-- V102: `SMULBT #3, #0x00050000`. -/
theorem test_smulbt_V102 :
    first 0x00000022#32 0x00000003#32 0x00050000#32 0x00000000#32 = some (0x0000000F#32, 0x00000001#32) := by decide
/-- V104: `SMULBT #2, #65535`. -/
theorem test_smulbt_V104 :
    first 0x00000022#32 0x00000002#32 0x0000FFFF#32 0x00000000#32 = some (0x00000000#32, 0x00000001#32) := by decide
/-- V105: `SMLABT #10, #3, #0xFFFE0000`. -/
theorem test_smlabt_V105 :
    first 0x00000023#32 0x0000000A#32 0x00000003#32 0xFFFE0000#32 = some (0x00000004#32, 0x00000001#32) := by decide
/-- V106: `SMLABT #0x7FFFFFFF, #1, #0x00010000`. -/
theorem test_smlabt_V106 :
    first 0x00000023#32 0x7FFFFFFF#32 0x00000001#32 0x00010000#32 = some (0x80000000#32, 0x00000001#32) := by decide
/-- V108: `SMULWB #-1, #1`. -/
theorem test_smulwb_V108 :
    first 0x00000024#32 0xFFFFFFFF#32 0x00000001#32 0x00000000#32 = some (0xFFFFFFFF#32, 0x00000001#32) := by decide
/-- V113: `SMULWB #0x12345678, #-65535`. -/
theorem test_smulwb_V113 :
    first 0x00000024#32 0x12345678#32 0xFFFF0001#32 0x00000000#32 = some (0x00001234#32, 0x00000001#32) := by decide
/-- V115: `SMLAWB #0x7FFFFFFF, #0x00010000, #1`. -/
theorem test_smlawb_V115 :
    first 0x00000025#32 0x7FFFFFFF#32 0x00010000#32 0x00000001#32 = some (0x80000000#32, 0x00000001#32) := by decide
/-- V117: `SMLAWB R, #0x00012345, #-1200`. -/
theorem test_smlawb_V117 :
    next 0x00010000#32 0x00000065#32 0xAAAAAAAA#32 0x00012345#32 0xFFFFFB50#32 = some (0x0000FAAA#32, 0x00000001#32) := by decide
/-- V119: `SMULWT #0x00010000, #0x0003FFFF`. -/
theorem test_smulwt_V119 :
    first 0x00000026#32 0x00010000#32 0x0003FFFF#32 0x00000000#32 = some (0x00000003#32, 0x00000001#32) := by decide
/-- V121: `SMULWT #-1, #0x00010000`. -/
theorem test_smulwt_V121 :
    first 0x00000026#32 0xFFFFFFFF#32 0x00010000#32 0x00000000#32 = some (0xFFFFFFFF#32, 0x00000001#32) := by decide
/-- V122: `SMLAWT #-5, #0x00030000, #0x00020000`. -/
theorem test_smlawt_V122 :
    first 0x00000027#32 0xFFFFFFFB#32 0x00030000#32 0x00020000#32 = some (0x00000001#32, 0x00000001#32) := by decide
/-- V123: `SMLAWT #0x7FFFFFFF, #0x00010000, #0x00010000`. -/
theorem test_smlawt_V123 :
    first 0x00000027#32 0x7FFFFFFF#32 0x00010000#32 0x00010000#32 = some (0x80000000#32, 0x00000001#32) := by decide
/-- V126: `SMULWW #0x7FFFFFFF, #0x7FFFFFFF`. -/
theorem test_smulww_V126 :
    first 0x00000028#32 0x7FFFFFFF#32 0x7FFFFFFF#32 0x00000000#32 = some (0xFFFF0000#32, 0x00000001#32) := by decide
/-- V128: `SMULWW #-1, #1`. -/
theorem test_smulww_V128 :
    first 0x00000028#32 0xFFFFFFFF#32 0x00000001#32 0x00000000#32 = some (0xFFFFFFFF#32, 0x00000001#32) := by decide
/-- V129: `SMLAWW #0x00010000, #0x00020000, #0x00020000`. -/
theorem test_smlaww_V129 :
    first 0x00000029#32 0x00010000#32 0x00020000#32 0x00020000#32 = some (0x00050000#32, 0x00000001#32) := by decide
/-- V130: `SMLAWW #1, #0x80000000, #0x80000000`. -/
theorem test_smlaww_V130 :
    first 0x00000029#32 0x00000001#32 0x80000000#32 0x80000000#32 = some (0x00000001#32, 0x00000001#32) := by decide
/-- V131: `MUL32 #-7, #6`. -/
theorem test_mul32_V131 :
    first 0x0000002A#32 0xFFFFFFF9#32 0x00000006#32 0x00000000#32 = some (0xFFFFFFD6#32, 0x00000001#32) := by decide
/-- V134: `MUL32 #-1, #-1`. -/
theorem test_mul32_V134 :
    first 0x0000002A#32 0xFFFFFFFF#32 0xFFFFFFFF#32 0x00000000#32 = some (0x00000001#32, 0x00000001#32) := by decide
/-- V135: `MLA32 #100, #-3, #4`. -/
theorem test_mla32_V135 :
    first 0x0000002B#32 0x00000064#32 0xFFFFFFFD#32 0x00000004#32 = some (0x00000058#32, 0x00000001#32) := by decide
/-- V136: `MLA32 #0x7FFFFFFF, #1, #1`. -/
theorem test_mla32_V136 :
    first 0x0000002B#32 0x7FFFFFFF#32 0x00000001#32 0x00000001#32 = some (0x80000000#32, 0x00000001#32) := by decide

/-! ## Faults, reset and reads -/

/-- V193: ADD_SAT32 R with `R` unwritten takes R_UNWRITTEN. -/
theorem test_unwritten_V193 : first 0x00000050#32 0#32 1#32 0#32 = some (0xDEADBEEF#32, 0x00000052#32) := by decide
/-- V194: DIV32 R with `R` unwritten and `B` = 0 takes R_UNWRITTEN, not DIV_ZERO. -/
theorem test_priority_V194 : first 0x00000048#32 0#32 0#32 0#32 = some (0xDEADBEEF#32, 0x00000052#32) := by decide
/-- V195: DIV32 with `B` = 0 takes DIV_ZERO and leaves `R`. -/
theorem test_divZero_V195 : next 7#32 0x00000008#32 9#32 0#32 0#32 = some (7#32, 0x00000043#32) := by decide
/-- V190: RESERVED_FIELD before R_UNWRITTEN. -/
theorem test_priority_V190 : first 0x000001D0#32 0#32 2#32 0#32 = some (0xDEADBEEF#32, 0x00000022#32) := by decide
/-- V200: MOV #1 to a faulted unit is ignored. -/
theorem test_ignored_V200 :
    after (unit 7#32 true true 4#4 (cmd 0x00000001#32 1#32 0#32 0#32)) = some (7#32, 0x00000043#32) := by decide
/-- Reset clears `STATUS` (70_reset_and_hazards.md R111; program P4, step 4), and aborts a command (R112). -/
theorem test_reset_clears_status :
    (after (unit 7#32 true true 4#4 .reset)).map (·.2) = some 0#32 ∧
    (after (unit 7#32 true false 0#4 (.resetDuring ⟨0x00000001#32, ⟨1#32, 0#32, 0#32⟩⟩))).map (·.2) = some 0#32 := by decide
/-- Program P4 after step 3: the host reads `R` = 5 and `STATUS` = 0x43 of the faulted unit. -/
theorem test_reads_P4 :
    step (unit 5#32 true true 4#4 .readR) =
      .next { unit 5#32 true true 4#4 .readR with pending := [], reads := [.r 5#32] } ∧
    step (unit 5#32 true true 4#4 .readStatus) =
      .next { unit 5#32 true true 4#4 .readStatus with pending := [], reads := [.status 0x43#32] } := ⟨rfl, rfl⟩
/-- The state after reset is given MLA32 first: it is performed. -/
theorem test_withFetchWord_runs :
    step (State.reset.withFetchWord 32 0x2B) = exec (.mla32 .portA) State.reset := rfl

/-! ## Assembly (95_test_vectors.md V201 to V208) -/

theorem test_assemble_V201 :
    assemble "SMLAWB R, #0x00012345, #-1200".toList = some ⟨0x00000065#32, ⟨0x00000000#32, 0x00012345#32, 0xFFFFFB50#32⟩⟩ := by decide
theorem test_assemble_V202 :
    assemble "RSHIFT_ROUND R, sh=13".toList = some ⟨0x00000D58#32, ⟨0x00000000#32, 0x00000000#32, 0x00000000#32⟩⟩ := by decide
theorem test_assemble_V203 :
    assemble "ADD_SAT32 #0x7FFFFFFF, #1".toList = some ⟨0x00000010#32, ⟨0x7FFFFFFF#32, 0x00000001#32, 0x00000000#32⟩⟩ := by decide
theorem test_assemble_V204 :
    assemble "LSHIFT_SAT32 #0x00012345, sh=16".toList = some ⟨0x00001017#32, ⟨0x00012345#32, 0x00000000#32, 0x00000000#32⟩⟩ := by decide
theorem test_assemble_V205 :
    assemble "SUB_RSHIFT32 R, #-256, sh=4".toList = some ⟨0x0000045F#32, ⟨0x00000000#32, 0xFFFFFF00#32, 0x00000000#32⟩⟩ := by decide
theorem test_assemble_V206 :
    assemble "LIMIT32 R, #-32768, #32767".toList = some ⟨0x00000056#32, ⟨0x00000000#32, 0xFFFF8000#32, 0x00007FFF#32⟩⟩ := by decide
theorem test_assemble_V207 :
    assemble "MLA32 #100, #-3, #4".toList = some ⟨0x0000002B#32, ⟨0x00000064#32, 0xFFFFFFFD#32, 0x00000004#32⟩⟩ := by decide
theorem test_assemble_V208 :
    assemble "CLZ32 R".toList = some ⟨0x0000004C#32, ⟨0x00000000#32, 0x00000000#32, 0x00000000#32⟩⟩ := by decide
/-- Pseudo-instructions (30_encoding.md R45). -/
theorem test_assemble_pseudo :
    assemble "CLR".toList = assemble "MOV #0".toList ∧ assemble "LDR #-1".toList = assemble "MOV #0xFFFFFFFF".toList ∧
    assemble "NOT R".toList = assemble "XOR32 R, #0xFFFFFFFF".toList ∧
    assemble "CLAMP R, #1, #2".toList = assemble "LIMIT32 R, #1, #2".toList ∧
    assemble "CLAMP16 R".toList = assemble "SAT16 R".toList ∧
    (assemble "SKP_ADD_SAT32 #1, #2".toList).isSome = true := by decide
/-- Lines that are none of the syntax (30_encoding.md R44): a missing operand, one too many, a shift amount in CMD-N, none in
CMD-S, a shift amount of 32, nine hex digits, `R` as second operand, no such operation. -/
theorem test_assemble_rejects :
    assemble "ADD32 #1".toList = none ∧ assemble "MOV #1, #2".toList = none ∧ assemble "MOV #1, sh=3".toList = none ∧
    assemble "LSHIFT32 #1".toList = none ∧ assemble "LSHIFT32 #1, sh=32".toList = none ∧
    assemble "MOV #0x123456789".toList = none ∧ assemble "ADD32 #1, R".toList = none ∧
    assemble "FMUL #1".toList = none := by decide


/-! ## Witnesses: every statement's hypotheses can be met, each clause at the ends of its range -/

/-- A reset unit but for a number in `R`; `cmd` to it. -/
def fresh (h : HostAction) : State := unit 9#32 false false 0#4 h
/-- A unit whose `R` holds a result. -/
def written (h : HostAction) : State := unit 9#32 true false 0#4 h
/-- A faulted unit. -/
def faulted (h : HostAction) : State := unit 9#32 true true 4#4 h

/-- The ends of the unassigned `OP` ranges. -/
theorem witness_unassigned :
    (Unassigned 0#6 ∧ Unassigned 14#6 ∧ Unassigned 15#6 ∧ Unassigned 44#6 ∧ Unassigned 63#6) ∧
    (¬ Unassigned 1#6 ∧ ¬ Unassigned 13#6 ∧ ¬ Unassigned 16#6 ∧ ¬ Unassigned 43#6) := by
  simp only [Unassigned]; decide

/-- The ends of the CMD-S range. -/
theorem witness_readsShift : ¬ ReadsShift 22#6 ∧ ReadsShift 23#6 ∧ ReadsShift 31#6 ∧ ¬ ReadsShift 32#6 := by
  simp only [ReadsShift]; decide

/-- Each end of the reserved bits, and their neighbours. -/
theorem witness_reservedSet :
    (ReservedSet 0x80#32 ∧ ReservedSet 0x2000#32 ∧ ReservedSet 0x80000000#32) ∧ ¬ ReservedSet 0x1F7F#32 := by
  simp only [ReservedSet]; decide

/-- DecodeChecksInOrder, a word for each clause in order: 0x3F; 0x81; 0x101; 0x18; 0x118. -/
theorem witness_DecodeChecksInOrder :
    Unassigned ((0x3F#32).extractLsb' 0 6) ∧
    (¬ Unassigned ((0x81#32).extractLsb' 0 6) ∧ ReservedSet 0x81#32) ∧
    (¬ Unassigned ((0x101#32).extractLsb' 0 6) ∧ ¬ ReservedSet 0x101#32 ∧
      ¬ ReadsShift ((0x101#32).extractLsb' 0 6) ∧ (0x101#32).extractLsb' 8 5 ≠ 0#5) ∧
    (¬ ReservedSet 0x18#32 ∧ (0x18#32).extractLsb' 0 6 = 0x18#6 ∧ (0x18#32).extractLsb' 8 5 = 0#5) ∧
    (¬ Unassigned ((0x118#32).extractLsb' 0 6) ∧ ¬ ReservedSet 0x118#32 ∧
      ¬ (¬ ReadsShift ((0x118#32).extractLsb' 0 6) ∧ (0x118#32).extractLsb' 8 5 ≠ 0#5) ∧
      ¬ ((0x118#32).extractLsb' 0 6 = 0x18#6 ∧ (0x118#32).extractLsb' 8 5 = 0#5)) := by
  simp only [Unassigned, ReservedSet, ReadsShift]; decide

theorem witness_EncodedInstructionsDecodeBack :
    (Instr.rshiftRound .regR 1#5).wellFormed = true ∧ (Instr.smlaww .portA).wellFormed = true := by decide

theorem witness_DecodedWordsEncodeBack : decode 0x00001F58#32 = .ok (.rshiftRound .regR 31#5) := by decide

/-- A unit with FLT = 0 given a word for each clause: causes 1, 2 (bit 13), 2 (`SH` of MOV), 3, and the zero word. -/
theorem witness_IllegalWordsFaultAndAreNotPerformed :
    (∀ w : Word, (fresh (cmd w 1#32 2#32 3#32)).flt = false ∧
      (fresh (cmd w 1#32 2#32 3#32)).pending = .issue ⟨w, ⟨1#32, 2#32, 3#32⟩⟩ :: []) ∧
    Unassigned ((0x2C#32).extractLsb' 0 6) ∧
    (¬ Unassigned ((0x2001#32).extractLsb' 0 6) ∧ ReservedSet 0x2001#32) ∧
    (¬ Unassigned ((0x1F01#32).extractLsb' 0 6) ∧ ¬ ReadsShift ((0x1F01#32).extractLsb' 0 6) ∧
      (0x1F01#32).extractLsb' 8 5 ≠ 0#5) ∧
    ((0x58#32).extractLsb' 0 6 = 0x18#6 ∧ ¬ ReservedSet 0x58#32 ∧ (0x58#32).extractLsb' 8 5 = 0#5) := by
  refine ⟨fun w => ⟨rfl, rfl⟩, ?_⟩
  simp only [Unassigned, ReservedSet, ReadsShift]; decide

theorem witness_StepRunsTheDecodedInstruction :
    (fresh (cmd 0x2B#32 1#32 2#32 3#32)).flt = false ∧
    (fresh (cmd 0x2B#32 1#32 2#32 3#32)).pending = .issue ⟨0x2B#32, ⟨1#32, 2#32, 3#32⟩⟩ :: [] ∧
    decode 0x2B#32 = .ok (.mla32 .portA) := by decide

/-- Each of the three outcomes of a command (CommandIsPerformedFaultedOrIgnored). -/
theorem witness_CommandIsPerformedFaultedOrIgnored :
    step (faulted (cmd 0x01#32 5#32 0#32 0#32)) = .next { faulted (cmd 0x01#32 5#32 0#32 0#32) with pending := [] } ∧
    step (fresh (cmd 0x41#32 5#32 0#32 0#32)) =
      .next { fresh (cmd 0x41#32 5#32 0#32 0#32) with
        pending := [], ports := ⟨5#32, 0#32, 0#32⟩, flt := true, cause := 5#4 } ∧
    step (fresh (cmd 0x01#32 5#32 0#32 0#32)) =
      .next { fresh (cmd 0x01#32 5#32 0#32 0#32) with
        pending := [], ports := ⟨5#32, 0#32, 0#32⟩, r := 5#32, rv := true } := ⟨rfl, rfl, rfl⟩

theorem witness_FaultEntryWritesOnlyFltAndCause :
    (written (cmd 0x08#32 9#32 0#32 0#32)).flt = false ∧
    ∃ t : State, step (written (cmd 0x08#32 9#32 0#32 0#32)) = .next t ∧ t.flt = true := ⟨rfl, _, rfl, rfl⟩

/-- A faulted unit with each of the three actions pending, `R` written. -/
theorem witness_FaultedUnitIgnoresCommands :
    (∀ h ∈ [cmd 0x01#32 1#32 0#32 0#32, .readR, .readStatus], (faulted h).flt = true ∧ (faulted h).pending = h :: []) ∧
    (faulted .readR).rv = true := by decide

/-- A command for each clause of FaultPriority in order, by what its step leaves in `STATUS`: ignored; 1 with bit 7 set too; 2
by bit 31 with `SH` = 1 too; 2 by `SH` with `R` unwritten too; 3 with `R` unwritten too; 5 with a zero divisor too; 4; none. -/
theorem witness_FaultPriority :
    (after (faulted (cmd 0#32 0#32 0#32 0#32))).map (·.2) = some 0x43#32 ∧
    (after (fresh (cmd 0x8E#32 0#32 0#32 0#32))).map (·.2) = some 0x12#32 ∧
    (after (fresh (cmd 0x80000110#32 0#32 0#32 0#32))).map (·.2) = some 0x22#32 ∧
    (after (fresh (cmd 0x150#32 0#32 0#32 0#32))).map (·.2) = some 0x22#32 ∧
    (after (fresh (cmd 0x58#32 0#32 0#32 0#32))).map (·.2) = some 0x32#32 ∧
    (after (fresh (cmd 0x48#32 0#32 0#32 0#32))).map (·.2) = some 0x52#32 ∧
    (after (written (cmd 0x48#32 0#32 0#32 0#32))).map (·.2) = some 0x43#32 ∧
    (after (written (cmd 0x48#32 0#32 3#32 0#32))).map (·.2) = some 0x01#32 := by decide

theorem witness_OperationsFaultOnlyForTheirCauses :
    (Instr.smlawb .regR).wellFormed = true ∧
    exec (.smlawb .regR) (fresh .readR) = .next { fresh .readR with flt := true, cause := 5#4 } ∧
    exec (.div32 .portA) (written .readR) = .next { written .readR with flt := true, cause := 4#4 } := ⟨rfl, rfl, rfl⟩

/-- A consistent state with `R` written and a step of it; the reset state, with `R` unwritten, is another. -/
theorem witness_StepKeepsStatusConsistent :
    StatusConsistent (written (cmd 0x08#32 9#32 0#32 0#32)) ∧
    (∃ t : State, step (written (cmd 0x08#32 9#32 0#32 0#32)) = .next t ∧ t.flt = true) ∧
    StatusConsistent State.reset ∧ State.reset.rv = false :=
  ⟨⟨by decide, by decide, fun h => nomatch h⟩, ⟨_, rfl, rfl⟩, ⟨by simp [State.reset], by simp [State.reset], fun _ => rfl⟩, rfl⟩

theorem witness_FaultStaysUntilReset :
    (faulted (cmd 0x01#32 5#32 0#32 0#32)).flt = true ∧
    ∀ h ∈ (faulted (cmd 0x01#32 5#32 0#32 0#32)).pending.take 3, assertsReset h = false := by decide

/-- A step for each clause: a reset, one with `RV` = 1 and no reset, a performed command, which raises `RV`, one with nothing
pending; and an instruction that reads an unwritten `R`. -/
theorem witness_RvIsClearedOnlyByReset :
    (assertsReset .reset = true ∧ (written .reset).pending = .reset :: [] ∧ ∃ t : State, step (written .reset) = .next t) ∧
    (assertsReset .readR = false ∧ (written .readR).rv = true ∧ ∃ t : State, step (written .readR) = .next t) ∧
    ((fresh (cmd 0x01#32 5#32 0#32 0#32)).rv = false ∧ (fresh (cmd 0x01#32 5#32 0#32 0#32)).flt = false ∧
      ∃ t : State, step (fresh (cmd 0x01#32 5#32 0#32 0#32)) = .next t ∧ t.flt = false ∧ t.rv = true) ∧
    State.reset.pending = [] ∧
    ((Instr.mov .regR).wellFormed = true ∧ (fresh .readR).flt = false ∧ (fresh .readR).rv = false) :=
  ⟨⟨rfl, rfl, _, rfl⟩, ⟨rfl, rfl, _, rfl⟩, ⟨rfl, rfl, _, rfl, rfl, rfl⟩, rfl, rfl, rfl, rfl⟩

theorem witness_RChangesOnlyByAPerformedCommand :
    assertsReset (cmd 0x01#32 5#32 0#32 0#32) = false ∧
    ∃ t : State, step (written (cmd 0x01#32 5#32 0#32 0#32)) = .next t ∧
      t.r ≠ (written (cmd 0x01#32 5#32 0#32 0#32)).r := ⟨rfl, _, rfl, by decide⟩

theorem witness_ResetClearsTheStatusState :
    (∃ c : Command, (faulted (.resetDuring c)).pending = .resetDuring c :: []) ∧
    (faulted .reset).pending = .reset :: [] ∧ (faulted .reset).flt = true ∧ (faulted .reset).rv = true ∧
    ∃ t : State, step (faulted .reset) = .next t ∧ t.flt = false ∧ t.rv = false :=
  ⟨⟨⟨0x01#32, ⟨5#32, 0#32, 0#32⟩⟩, rfl⟩, rfl, rfl, rfl, _, rfl, rfl, rfl⟩

/-- The highest code, and a read of `STATUS`. -/
theorem witness_StatusLayout :
    StatusConsistent (unit 9#32 true true 5#4 .readStatus) ∧
    (unit 9#32 true true 5#4 .readStatus).pending = .readStatus :: [] :=
  ⟨⟨by decide, by decide, fun h => nomatch h⟩, rfl⟩

theorem witness_ReadOfRHasNoSideEffect :
    (written .readR).pending = .readR :: [] ∧ (written .readR).rv = true ∧ (fresh .readR).rv = false := by decide

/-- ABS32 R with all three ports changed, and SMLAWB #a with none of its own changed. -/
theorem witness_UnreadPortsHaveNoEffect :
    (((Instr.abs32 .regR).asel = .portA → (7#32 : Word) = (written .readR).ports.a) ∧
      ((Instr.abs32 .regR).readsB = true → (7#32 : Word) = (written .readR).ports.b) ∧
      ((Instr.abs32 .regR).readsC = true → (7#32 : Word) = (written .readR).ports.c) ∧
      exec (.abs32 .regR) (written .readR) = .next (written .readR)) ∧
    ((Instr.smlawb .regR).readsC = true ∧ (Instr.smulwb .regR).readsC = false ∧ (Instr.mov .regR).readsB = false) :=
  ⟨⟨(fun h => nomatch h), (fun h => nomatch h), (fun h => nomatch h), rfl⟩, rfl, rfl, rfl⟩

theorem witness_InstancesShareNoState : (0 : Fin 2) ≠ (1 : Fin 2) := by decide

/-- Both forms of the first operand, units that accept them, and limits in order, equal ones too. -/
theorem witness_PseudoInstructionsHaveTheirEffect :
    ((∃ v : Word, AsmOperand.val 5#32 = .val v) ∧ (fresh .readR).flt = false) ∧
    (Accepts .portA (fresh .readR) ∧ Accepts .regR (written .readR)) ∧
    (0xFFFF8000#32).toInt ≤ (0x7FFF#32).toInt ∧ (3#32).toInt ≤ (3#32).toInt :=
  ⟨⟨⟨_, rfl⟩, rfl⟩, ⟨⟨rfl, fun h => nomatch h⟩, ⟨rfl, fun _ => rfl⟩⟩, by decide, by decide⟩

/-! ### The rules of the operations

`RuleN` and `RuleS` have the same hypotheses for every operation: a word of its `OP`, a state with `FLT` = 0 and `RV` = 0, a
faulted state, and an accepting state for each selector. -/

/-- The states: R_UNWRITTEN, ignored, accepted with `ASEL` = 0 (`R` unwritten and written) and with `ASEL` = 1. -/
def StatesMeet : Prop :=
  ((fresh .readR).flt = false ∧ (fresh .readR).rv = false) ∧ (faulted .readR).flt = true ∧
  Accepts .portA (fresh .readR) ∧ Accepts .portA (written .readR) ∧ Accepts .regR (written .readR)

theorem statesMeet : StatesMeet :=
  ⟨⟨rfl, rfl⟩, rfl, ⟨rfl, fun h => nomatch h⟩, ⟨rfl, fun _ => rfl⟩, ⟨rfl, fun _ => rfl⟩⟩

/-- Words of a CMD-N `OP`: two that match its fixed bits, and one with each end of each reserved field set. -/
def wordsN (op : BitVec 6) : Bool :=
  ([0#32, 0x40#32].all fun x =>
    (op.setWidth 32 ||| x).extractLsb' 0 6 == op && (op.setWidth 32 ||| x) &&& 0xFFFFFFBF#32 == op.setWidth 32) &&
  ([0x80#32, 0x100#32, 0x1000#32, 0x2000#32, 0x80000000#32].all fun x =>
    (op.setWidth 32 ||| x).extractLsb' 0 6 == op && (op.setWidth 32 ||| x) &&& 0xFFFFFFBF#32 != op.setWidth 32)

/-- Words of a CMD-S `OP`: `SH` = 0 and 31 match its fixed bits; one with each end of each reserved field set. -/
def wordsS (op : BitVec 6) : Bool :=
  ([0#32, 0x40#32, 0x1F00#32, 0x1F40#32].all fun x =>
    (op.setWidth 32 ||| x).extractLsb' 0 6 == op && (op.setWidth 32 ||| x) &&& 0xFFFFE0BF#32 == op.setWidth 32) &&
  ([0x80#32, 0x2000#32, 0x80000000#32].all fun x =>
    (op.setWidth 32 ||| x).extractLsb' 0 6 == op && (op.setWidth 32 ||| x) &&& 0xFFFFE0BF#32 != op.setWidth 32)

theorem witness_SaturatingAddAndSubtract :
    (wordsN 0x10#6 = true ∧ wordsN 0x11#6 = true) ∧ StatesMeet := ⟨by decide, statesMeet⟩
theorem witness_AddPosSat32TestsTheWrappedSum :
    (wordsN 0x12#6 = true) ∧ StatesMeet := ⟨by decide, statesMeet⟩
theorem witness_SixteenBitSaturation :
    (wordsN 0x13#6 = true ∧ wordsN 0x14#6 = true ∧ wordsN 0x15#6 = true) ∧ StatesMeet := ⟨by decide, statesMeet⟩
theorem witness_Limit32OrderOfTests :
    (wordsN 0x16#6 = true) ∧ StatesMeet := ⟨by decide, statesMeet⟩
theorem witness_LshiftSat32LimitsThenShifts :
    (wordsS 0x17#6 = true) ∧ StatesMeet := ⟨by decide, statesMeet⟩
theorem witness_PlainShifts :
    (wordsS 0x19#6 = true ∧ wordsS 0x1A#6 = true ∧ wordsS 0x1B#6 = true) ∧ StatesMeet := ⟨by decide, statesMeet⟩
theorem witness_AddAndSubtractShifted :
    (wordsS 0x1C#6 = true ∧ wordsS 0x1D#6 = true ∧ wordsS 0x1E#6 = true ∧ wordsS 0x1F#6 = true) ∧ StatesMeet := ⟨by decide, statesMeet⟩
theorem witness_HalfwordProducts :
    (wordsN 0x20#6 = true ∧ wordsN 0x21#6 = true ∧ wordsN 0x22#6 = true ∧ wordsN 0x23#6 = true) ∧ StatesMeet := ⟨by decide, statesMeet⟩
theorem witness_WordByHalfwordProducts :
    (wordsN 0x24#6 = true ∧ wordsN 0x25#6 = true ∧ wordsN 0x26#6 = true ∧ wordsN 0x27#6 = true) ∧ StatesMeet := ⟨by decide, statesMeet⟩
theorem witness_WordByWordProducts :
    (wordsN 0x28#6 = true ∧ wordsN 0x29#6 = true ∧ wordsN 0x2A#6 = true ∧ wordsN 0x2B#6 = true) ∧ StatesMeet := ⟨by decide, statesMeet⟩
theorem witness_MoveAndWrappingArithmetic :
    (wordsN 0x01#6 = true ∧ wordsN 0x02#6 = true ∧ wordsN 0x03#6 = true ∧ wordsN 0x04#6 = true) ∧ StatesMeet := ⟨by decide, statesMeet⟩
theorem witness_AbsoluteValueMaximumMinimum :
    (wordsN 0x05#6 = true ∧ wordsN 0x06#6 = true ∧ wordsN 0x07#6 = true) ∧ StatesMeet := ⟨by decide, statesMeet⟩
theorem witness_BitwiseOperations :
    (wordsN 0x09#6 = true ∧ wordsN 0x0A#6 = true ∧ wordsN 0x0B#6 = true) ∧ StatesMeet := ⟨by decide, statesMeet⟩
theorem witness_Clz32CountsLeadingZeros :
    (wordsN 0x0C#6 = true) ∧ StatesMeet := ⟨by decide, statesMeet⟩
theorem witness_RandStepsTheGenerator :
    (wordsN 0x0D#6 = true) ∧ StatesMeet := ⟨by decide, statesMeet⟩

/-- The divisors: zero, and the smallest and greatest words that are not. -/
theorem witness_Div32TruncatesAndFaultsOnZero :
    wordsN 0x08#6 = true ∧ StatesMeet ∧ (written .readR).ports.b = 0#32 ∧
    ({ written .readR with ports := ⟨0#32, 1#32, 0#32⟩ } : State).ports.b ≠ 0#32 ∧
    ({ written .readR with ports := ⟨0#32, 0xFFFFFFFF#32, 0#32⟩ } : State).ports.b ≠ 0#32 :=
  ⟨by decide, statesMeet, rfl, by decide, by decide⟩

/-- The words of RSHIFT_ROUND: performed, BAD_SHIFT, RESERVED_FIELD; the ends of its shift amounts. -/
theorem witness_RshiftRoundRoundsToNearest :
    wordsS 0x18#6 = true ∧ (0x18#32).extractLsb' 8 5 = 0#5 ∧ (0x1F58#32).extractLsb' 8 5 ≠ 0#5 ∧
    1#5 ≠ 0#5 ∧ 31#5 ≠ 0#5 ∧ StatesMeet :=
  ⟨by decide, by decide, by decide, by decide, by decide, statesMeet⟩

theorem witness_RshiftRoundReferenceForm : 1#5 ≠ 0#5 ∧ 2#5 ≠ 0#5 ∧ 31#5 ≠ 0#5 ∧ StatesMeet :=
  ⟨by decide, by decide, by decide, statesMeet⟩

theorem witness_Limit32ClampsBetweenItsLimits : StatesMeet := statesMeet
theorem witness_AddSat32IsTheSignBitTest : StatesMeet := statesMeet
theorem witness_WordByHalfwordReferenceForms : StatesMeet := statesMeet
theorem witness_WordByWordReferenceForms : StatesMeet := statesMeet
theorem witness_WordByHalfwordBias : StatesMeet := statesMeet

/-- For a shift by 4: both ends of the range that shifts exactly, and the first word past each. -/
theorem witness_LshiftSat32SaturationPoints :
    (-2147483648 ≤ (0xF8000000#32).toInt * 2 ^ (4#5).toNat ∧ (0x07FFFFFF#32).toInt * 2 ^ (4#5).toNat ≤ 2147483647) ∧
    (0xF7FFFFFF#32).toInt * 2 ^ (4#5).toNat < -2147483648 ∧ 2147483647 < (0x08000000#32).toInt * 2 ^ (4#5).toNat ∧
    Accepts .portA { fresh .readR with ports := ⟨0x08000000#32, 0#32, 0#32⟩ } :=
  ⟨by decide, by decide, by decide, rfl, fun h => nomatch h⟩

theorem witness_AddPosSat32OfNonNegatives :
    Accepts .regR (written .readR) ∧ 0 ≤ (opA .regR (written .readR)).toInt ∧ 0 ≤ (written .readR).ports.b.toInt :=
  ⟨⟨rfl, fun _ => rfl⟩, by decide, by decide⟩

/-- The accumulations' exact sums at the two ends of the range. -/
theorem witness_QFormatOfHalfwordProducts :
    StatesMeet ∧
    (-2147483648 ≤ (0x7FFFFFFE#32).toInt + bottom 1#32 * bottom 1#32 ∧
      (0x7FFFFFFE#32).toInt + bottom 1#32 * bottom 1#32 ≤ 2147483647) ∧
    (-2147483648 ≤ (0x80000001#32).toInt + bottom 1#32 * bottom 0xFFFF#32 ∧
      (0x80000001#32).toInt + bottom 1#32 * bottom 0xFFFF#32 ≤ 2147483647) ∧
    (-2147483648 ≤ (0x7FFFFFFE#32).toInt + bottom 1#32 * top 0x10000#32 ∧
      (0x7FFFFFFE#32).toInt + bottom 1#32 * top 0x10000#32 ≤ 2147483647) ∧
    (-2147483648 ≤ (0x80000001#32).toInt + bottom 1#32 * top 0xFFFF0000#32 ∧
      (0x80000001#32).toInt + bottom 1#32 * top 0xFFFF0000#32 ≤ 2147483647) :=
  ⟨statesMeet, by decide, by decide, by decide +kernel, by decide +kernel⟩

/-- The masks of the ends of the range: k = 0 and k = 31. -/
theorem witness_And32WithAMaskIsARemainder :
    (fresh .readR).ports.b = BitVec.ofNat 32 (2 ^ 0 - 1) ∧
    ({ fresh .readR with ports := ⟨0#32, 0x7FFFFFFF#32, 0#32⟩ } : State).ports.b = BitVec.ofNat 32 (2 ^ 31 - 1) ∧
    Accepts .portA (fresh .readR) :=
  ⟨by decide, by decide, rfl, fun h => nomatch h⟩

theorem witness_OverflowingCornersDoNotFault :
    ({ fresh .readR with ports := ⟨0x80000000#32, 0xFFFFFFFF#32, 0#32⟩ } : State).flt = false ∧
    ({ fresh .readR with ports := ⟨0x80000000#32, 0xFFFFFFFF#32, 0#32⟩ } : State).ports.a = 0x80000000#32 ∧
    ({ fresh .readR with ports := ⟨0x80000000#32, 0xFFFFFFFF#32, 0#32⟩ } : State).ports.b = 0xFFFFFFFF#32 := by decide

end Sys2Proof.Tests
end

/-! PROOFS. The status state (10_state.md sections 2, 3 and 8): what each action of the host does to `RV`, the bits of `STATUS`,
and the reads. -/

namespace Sys2Proof.Proofs

open Sys2Proof.Machine

/-! ## The host's reads -/

/-- A read of `R` notes its value for the host and nothing else. -/
theorem step_readR {s : State} {rest : List HostAction} (hp : s.pending = .readR :: rest) :
    step s = .next { s with pending := rest, reads := s.reads ++ [.r (readR s)] } :=
  step_act hp

/-- A read of `STATUS` notes its value for the host and nothing else. -/
theorem step_readStatus {s : State} {rest : List HostAction} (hp : s.pending = .readStatus :: rest) :
    step s = .next { s with pending := rest, reads := s.reads ++ [.status (status s)] } :=
  step_act hp

/-- While `RV` = 1 a read of `R` gives the last result. -/
theorem readR_of_rv {s : State} (h : s.rv = true) : readR s = s.r := by
  simp [readR, h]

/-! ## `RV` after each action -/

/-- After an action that asserts reset `RV` is 0. -/
theorem rv_of_step_assertsReset {s t : State} {h : HostAction} {rest : List HostAction} (hp : s.pending = h :: rest)
    (hs : step s = .next t) (hr : assertsReset h = true) : t.rv = false := by
  rw [step_act hp] at hs
  cases h with
  | reset => cases hs; rfl
  | resetDuring c => cases hs; rfl
  | issue c => cases hr
  | readR => cases hr
  | readStatus => cases hr

/-- A command sets `RV` exactly where it is performed, that is where `FLT` is 0 before and after it, and never clears it. -/
theorem rv_of_step_issue {s t : State} {c : Command} {rest : List HostAction} (hp : s.pending = .issue c :: rest)
    (hs : step s = .next t) : t.rv = (s.rv || (!s.flt && !t.flt)) := by
  have hi : issue exec c { s with pending := rest } = .next t := (step_act hp).symm.trans hs
  rcases issue_cases c { s with pending := rest } with ⟨hf, ho⟩ | ⟨_, e, ho⟩ | ⟨hf, v, ho⟩ <;>
    cases ho.symm.trans hi
  · have hf : s.flt = true := hf
    simp [hf]
  · simp
  · have hf : s.flt = false := hf
    simp [hf]

/-- A step without reset either is a command or is a read, which leaves `RV` as it was. -/
theorem issue_or_rv_kept {s t : State} {h : HostAction} {rest : List HostAction} (hp : s.pending = h :: rest)
    (hs : step s = .next t) (hr : assertsReset h = false) : (∃ c, h = .issue c) ∨ t.rv = s.rv := by
  cases h with
  | issue c => exact .inl ⟨c, rfl⟩
  | readR => cases (step_readR hp).symm.trans hs; exact .inr rfl
  | readStatus => cases (step_readStatus hp).symm.trans hs; exact .inr rfl
  | reset => cases hr
  | resetDuring c => cases hr

/-- Only reset clears `RV`. -/
theorem rv_kept_without_reset {s t : State} {h : HostAction} {rest : List HostAction} (hp : s.pending = h :: rest)
    (hs : step s = .next t) (hr : assertsReset h = false) (hv : s.rv = true) : t.rv = true := by
  rcases issue_or_rv_kept hp hs hr with ⟨c, rfl⟩ | hk
  · simp [rv_of_step_issue hp hs, hv]
  · rw [hk, hv]

/-- Only a performed command raises `RV`. -/
theorem performed_of_rv_raised {s t : State} {h : HostAction} {rest : List HostAction} (hp : s.pending = h :: rest)
    (hs : step s = .next t) (hv : s.rv = false) (ht : t.rv = true) :
    s.flt = false ∧ t.flt = false ∧ ∃ c, h = .issue c := by
  have hr : assertsReset h = false := by
    by_contra hr
    simp [rv_of_step_assertsReset hp hs (by simpa using hr)] at ht
  rcases issue_or_rv_kept hp hs hr with ⟨c, rfl⟩ | hk
  · obtain ⟨hsf, htf⟩ : s.flt = false ∧ t.flt = false := by simpa [hv, ht] using rv_of_step_issue hp hs
    exact ⟨hsf, htf, c, rfl⟩
  · simp [hk, hv] at ht

/-- An instruction that would read an unwritten `R` takes `R_UNWRITTEN`, whatever its operation (60_exceptions.md R95). -/
theorem exec_regR_unwritten {i : Instr} {s : State} (hi : i.wellFormed = true) (ha : i.asel = .regR) (hf : s.flt = false)
    (hv : s.rv = false) : exec i s = .next (takeFault .rUnwritten s) := by
  have hr : opAReadable i.asel s = false := by rw [ha]; exact hv
  rw [exec_eq_perform i hi]
  exact perform_unwritten hf hr _

/-- Settles O16, by the actions of the host: `RV` after a reset, after a command and after a read. -/
theorem rvIsClearedOnlyByReset : Obligations.RvIsClearedOnlyByReset := by
  refine ⟨rfl, fun s t h rest hp hs => ⟨?_, ?_, ?_, ?_⟩, fun s => step_idle, fun i s => exec_regR_unwritten⟩
  · exact rv_of_step_assertsReset hp hs
  · exact rv_kept_without_reset hp hs
  · rintro c rfl hf ht
    simp [rv_of_step_issue hp hs, hf, ht]
  · exact performed_of_rv_raised hp hs

/-! ## The bits of `STATUS` -/

/-- Every bit of `STATUS` (10_state.md R16). -/
theorem getLsbD_status (s : State) (k : Nat) :
    (status s).getLsbD k =
      if k = 0 then s.rv else if k = 1 then s.flt else if k < 4 then false else s.cause.getLsbD (k - 4) := by
  show BitVec.getLsbD (w := 24 + 4 + 2 + 1 + 1)
    (0#24 ++ s.cause ++ 0#2 ++ BitVec.ofBool s.flt ++ BitVec.ofBool s.rv) k = _
  simp only [BitVec.getLsbD_append, BitVec.getLsbD_zero]
  match k with
  | 0 => simp
  | 1 => simp
  | 2 => simp
  | 3 => simp
  | j + 4 =>
    by_cases hj : j < 4
    · simp [hj]
    · simp [hj, BitVec.getLsbD_of_ge s.cause j (by omega)]

/-- Bits 3:2 of `STATUS` are 0. -/
theorem status_reserved_low (s : State) : (status s).extractLsb' 2 2 = 0#2 := by
  ext k hk
  simp [BitVec.getElem_extractLsb', getLsbD_status, show 2 + k ≠ 1 by omega, show 2 + k < 4 by omega]

/-- Bits 7:4 of `STATUS` are `CAUSE`. -/
theorem status_cause (s : State) : (status s).extractLsb' 4 4 = s.cause := by
  ext k hk
  simp [BitVec.getElem_extractLsb', getLsbD_status, show 4 + k ≠ 1 by omega, BitVec.getLsbD_eq_getElem hk]

/-- Bits 31:8 of `STATUS` are 0. -/
theorem status_reserved_high (s : State) : (status s).extractLsb' 8 24 = 0#24 := by
  ext k hk
  simp [BitVec.getElem_extractLsb', getLsbD_status, show 8 + k ≠ 1 by omega, show ¬ 8 + k < 4 by omega,
    BitVec.getLsbD_of_ge s.cause (8 + k - 4) (by omega)]

/-- In the state after reset `STATUS` reads 0. -/
theorem status_reset : status State.reset = 0#32 := rfl

/-- Settles O20, field by field of the word; the bound on the code is the second part of `StatusConsistent`. -/
theorem statusLayout : Obligations.StatusLayout := by
  refine ⟨fun s => ⟨?_, ?_, status_reserved_low s, status_cause s, status_reserved_high s⟩, status_reset, ?_,
    fun s rest => step_readStatus⟩
  · exact getLsbD_status s 0
  · exact getLsbD_status s 1
  · rintro s ⟨_, hcode, _⟩
    rwa [status_cause]

/-- Settles O19: the first three are the fields of `State.reset`, the last is `status_reset`. -/
theorem statusReadsZeroAfterReset : Obligations.StatusReadsZeroAfterReset :=
  ⟨rfl, rfl, rfl, status_reset⟩

/-- Settles O21 with the value `readR s`, of which only the case `RV` = 1 is used. -/
theorem readOfRHasNoSideEffect : Obligations.ReadOfRHasNoSideEffect :=
  fun s _ hp => ⟨readR s, step_readR hp, readR_of_rv⟩

end Sys2Proof.Proofs

/-! PROOFS. The decoder's checks in order, the faults of illegal and reserved words, and the pseudo-instructions
(30_encoding.md R41, R42 and R45). -/

namespace Sys2Proof.Proofs

open Sys2Proof.Machine Sys2Proof.Laws

/-! ## The opcode map's terms -/

/-- The opcode map selects nothing exactly at the unassigned values of `OP` (30_encoding.md R40): one case per row. -/
theorem instrOf_eq_none_iff (op : BitVec 6) (asel : OpASel) (sh : Shift) :
    instrOf op.toNat asel sh = none ↔ Unassigned op := by
  unfold instrOf Unassigned
  split <;> simp only [reduceCtorEq, true_iff, false_iff, imp_false] at * <;> omega

/-- The format is told by `OP` alone (30_encoding.md R37). -/
theorem format_eq_cmdN_iff (i : Instr) : i.format = .cmdN ↔ ¬ ReadsShift i.opcode := by
  unfold ReadsShift
  cases i <;> simp [Instr.format, Instr.opcode]

/-- The one ill-formed instruction by its fields: RSHIFT_ROUND with `SH` = 0 (30_encoding.md R38). -/
theorem wellFormed_eq_false_iff (i : Instr) : i.wellFormed = false ↔ i.opcode = 0x18#6 ∧ i.sh = 0#5 := by
  cases i <;> simp [Instr.wellFormed, Instr.opcode, Instr.sh]

/-- An assigned `OP` selects an instruction with the word's `OP` and `ASEL`, and its `SH` where the operation reads it. -/
theorem instrOf_of_assigned {w : Word} (h : ¬ Unassigned (opField w)) :
    ∃ i, instrOf (opField w).toNat (aselField w) (shField w) = some i ∧ i.opcode = opField w ∧
      i.asel = aselField w ∧ (ReadsShift (opField w) → i.sh = shField w) := by
  obtain ⟨i, hi⟩ := Option.ne_none_iff_exists'.mp (mt (instrOf_eq_none_iff _ (aselField w) (shField w)).mp h)
  obtain ⟨hop, hasel, hsh⟩ := Encoding.fields_of_instrOf hi
  have hop : i.opcode = opField w := BitVec.eq_of_toNat_eq hop
  refine ⟨i, hi, hop, hasel, fun hr => hsh ?_⟩
  cases hf : i.format with
  | cmdS => rfl
  | cmdN => exact absurd (hop ▸ hr) ((format_eq_cmdN_iff i).mp hf)

/-! ## The reserved bits -/

/-- The reserved bits of a command word are bit 7 and bits 31:13 (30_encoding.md R36). -/
theorem getLsbD_reservedMask : ∀ k < 32, (0xFFFFE080#32).getLsbD k = decide (k = 7 ∨ 13 ≤ k) := by decide

/-- No reserved bit is set, bit by bit. -/
theorem not_reservedSet_iff (w : Word) : ¬ ReservedSet w ↔ ∀ k < 32, k = 7 ∨ 13 ≤ k → w.getLsbD k = false := by
  unfold ReservedSet
  rw [not_not, BitVec.eq_of_getLsbD_eq_iff]
  refine forall₂_congr fun k hk => ?_
  rw [BitVec.getLsbD_and, getLsbD_reservedMask k hk]
  by_cases h : k = 7 ∨ 13 ≤ k <;> simp [h]

/-- The decoder's test of the reserved bits is the mask's. -/
theorem reservedClear_iff (w : Word) : reservedClear w = true ↔ ¬ ReservedSet w := by
  simp only [not_reservedSet_iff, reservedClear, Bool.and_eq_true, Bool.not_eq_true', beq_iff_eq]
  constructor
  · rintro ⟨h7, hhigh⟩ k hk (rfl | hk13)
    · exact h7
    · have := congrArg (·.getLsbD (k - 13)) hhigh
      simpa [show k - 13 < 19 by omega, show 13 + (k - 13) = k by omega] using this
  · intro h
    refine ⟨h 7 (by omega) (.inl rfl), BitVec.eq_of_getLsbD_eq fun k hk => ?_⟩
    simp [hk, h (13 + k) (by omega) (.inr (by omega))]

/-! ## Decoding by clauses (30_encoding.md R41) -/

/-- The checks that follow the one on `OP`, in the terms of the claims. -/
theorem decode_of_instrOf {w : Word} {i : Instr}
    (h : instrOf (opField w).toNat (aselField w) (shField w) = some i) :
    (ReservedSet w ∨ (i.format = .cmdN ∧ shField w ≠ 0#5) → decode w = .fault .reservedField) ∧
    (¬ ReservedSet w → ¬ (i.format = .cmdN ∧ shField w ≠ 0#5) →
      decode w = if i.wellFormed then .ok i else .fault .badShift) := by
  simp only [decode, h]
  by_cases hr : ReservedSet w
  · simp [hr, (reservedClear_iff w).not_left.mpr hr]
  · have hc : reservedClear w = true := (reservedClear_iff w).mpr hr
    by_cases hn : i.format = .cmdN ∧ shField w ≠ 0#5
    · simp [hr, hc, hn]
    · cases hw : i.wellFormed <;> simp [hr, hc, hn]

/-- An unassigned `OP` is reported before any other defect. -/
theorem decode_illegalOp {w : Word} (h : Unassigned (opField w)) : decode w = .fault .illegalOp := by
  simp only [decode, (instrOf_eq_none_iff _ (aselField w) (shField w)).mpr h]

/-- A reserved bit, or a shift amount in an operation that reads none. -/
theorem decode_reservedField {w : Word} (h : ¬ Unassigned (opField w))
    (hr : ReservedSet w ∨ (¬ ReadsShift (opField w) ∧ shField w ≠ 0#5)) : decode w = .fault .reservedField := by
  obtain ⟨i, hi, hop, -⟩ := instrOf_of_assigned h
  rw [← hop, ← format_eq_cmdN_iff] at hr
  exact (decode_of_instrOf hi).1 hr

/-- A word without a reserved bit or a stray shift amount decodes to an instruction with its fields, unless that is
RSHIFT_ROUND by 0. -/
theorem decode_of_fieldsClear {w : Word} (h : ¬ Unassigned (opField w)) (hr : ¬ ReservedSet w)
    (hn : ¬ (¬ ReadsShift (opField w) ∧ shField w ≠ 0#5)) :
    ∃ i : Instr, (decode w = if i.wellFormed then .ok i else .fault .badShift) ∧ i.opcode = opField w ∧
      i.asel = aselField w ∧ i.sh = shField w := by
  obtain ⟨i, hi, hop, hasel, hsh⟩ := instrOf_of_assigned h
  have hn' : ¬ (i.format = .cmdN ∧ shField w ≠ 0#5) := by rwa [format_eq_cmdN_iff, hop]
  refine ⟨i, (decode_of_instrOf hi).2 hr hn', hop, hasel, ?_⟩
  by_cases hs : ReadsShift (opField w)
  · exact hsh hs
  · rw [Encoding.sh_of_cmdN ((format_eq_cmdN_iff i).mpr (hop ▸ hs))]
    exact (not_not.mp fun h0 => hn ⟨hs, h0⟩).symm

/-- RSHIFT_ROUND by 0 with its reserved bits clear. -/
theorem decode_badShift {w : Word} (hr : ¬ ReservedSet w) (hop : opField w = 0x18#6) (hsh : shField w = 0#5) :
    decode w = .fault .badShift := by
  have hu : ¬ Unassigned (opField w) := by rw [hop]; simp [Unassigned]
  obtain ⟨i, hd, hiop, -, hish⟩ := decode_of_fieldsClear hu hr fun hn => hn.2 hsh
  have hw : i.wellFormed = false := (wellFormed_eq_false_iff i).mpr ⟨hiop.trans hop, hish.trans hsh⟩
  simpa [hw] using hd

/-- A word with none of the four defects. -/
theorem decode_ok {w : Word} (h : ¬ Unassigned (opField w)) (hr : ¬ ReservedSet w)
    (hn : ¬ (¬ ReadsShift (opField w) ∧ shField w ≠ 0#5)) (hb : ¬ (opField w = 0x18#6 ∧ shField w = 0#5)) :
    ∃ i : Instr, decode w = .ok i ∧ i.opcode = opField w ∧ i.asel = aselField w ∧ i.sh = shField w := by
  obtain ⟨i, hd, hop, hasel, hsh⟩ := decode_of_fieldsClear h hr hn
  have hw : i.wellFormed = true := by
    rw [← hop, ← hsh, ← wellFormed_eq_false_iff] at hb
    simpa using hb
  exact ⟨i, by simpa [hw] using hd, hop, hasel, hsh⟩

/-- Settles O1: one decoding lemma per clause. -/
theorem decodeChecksInOrder : Obligations.DecodeChecksInOrder := fun _ =>
  ⟨decode_illegalOp, fun h =>
    ⟨fun hr => decode_reservedField h (.inl hr), fun hr =>
      ⟨fun hn => decode_reservedField h (.inr hn), fun ⟨hop, hsh⟩ => decode_badShift hr hop hsh, decode_ok h hr⟩⟩⟩

/-! ## Illegal and reserved words (30_encoding.md R42) -/

/-- A command whose word faults is taken off the host's list and its operand words are sampled; beside that it only
enters the fault. -/
theorem step_of_decode_fault {s : State} {c : Command} {rest : List HostAction} {e : Cause} (hf : s.flt = false)
    (hp : s.pending = .issue c :: rest) (hd : decode c.word = .fault e) :
    step s = .next { s with pending := rest, ports := c.ports, flt := true, cause := e.code } := by
  have hi : issue exec c { s with pending := rest } = raiseFault e (sample c.ports { s with pending := rest }) := by
    simp [issue, hf, hd]
  calc step s = issue exec c { s with pending := rest } := step_act hp
    _ = raiseFault e (sample c.ports { s with pending := rest }) := hi
    _ = .next (takeFault e (sample c.ports { s with pending := rest })) :=
      raiseFault_eq (s := sample c.ports { s with pending := rest }) hf e

/-- Settles O5: the step on a word whose decoding faults, with the decoding lemma of each clause. -/
theorem illegalWordsFaultAndAreNotPerformed : Obligations.IllegalWordsFaultAndAreNotPerformed := by
  refine fun s w p rest hf hp => ⟨fun hu => ?_, fun hu hr => ?_, fun hop hr hsh => ?_, fun hw => ?_⟩
  · exact step_of_decode_fault hf hp (decode_illegalOp hu)
  · exact step_of_decode_fault hf hp (decode_reservedField hu hr)
  · exact step_of_decode_fault hf hp (decode_badShift hr hop hsh)
  · exact step_of_decode_fault hf hp (decode_illegalOp (.inl (by rw [hw]; rfl)))

/-! ## A command issued by its encoding -/

/-- The encoder's word of a well-formed instruction decodes to it: its fields pass every check. -/
theorem decode_encode {i : Instr} (hi : i.wellFormed = true) : decode (encode i) = .ok i := by
  obtain ⟨hop, hasel, hsh, hclear⟩ := Encoding.fields_encode i
  have hmap : instrOf (opField (encode i)).toNat (aselField (encode i)) (shField (encode i)) = some i := by
    rw [hop, hasel, hsh, Encoding.instrOf_fields]
  have hn : ¬ (i.format = .cmdN ∧ shField (encode i) ≠ 0#5) := fun h => h.2 (hsh.trans (Encoding.sh_of_cmdN h.1))
  rw [(decode_of_instrOf hmap).2 ((reservedClear_iff _).mp hclear) hn, if_pos hi]

/-- A unit that accepts the selector may read the first operand. -/
theorem opAReadable_of_accepts {asel : OpASel} {s : State} (h : Accepts asel s) : opAReadable asel s = true := by
  cases asel with
  | portA => rfl
  | regR => exact h.2 rfl

/-- An accepted command writes its operation's value on the operand words it came with, and nothing else changes. -/
theorem issue_encode {i : Instr} {p : Ports} {s : State} {v : Word} (hi : i.wellFormed = true) (hs : Accepts i.asel s)
    (hv : operation i (opA i.asel (sample p s)) p.b p.c = .value v) :
    issue exec ⟨encode i, p⟩ s = .next { s with ports := p, r := v, rv := true } := by
  have hrun : issue exec ⟨encode i, p⟩ s = exec i (sample p s) := by simp [issue, hs.1, decode_encode hi]
  have hread : opAReadable i.asel (sample p s) = true := opAReadable_of_accepts (s := sample p s) hs
  rw [hrun, exec_eq_perform i hi]
  exact perform_value (s := sample p s) hs.1 hread hv

/-! ## Lines of one operation (30_encoding.md R44) -/

theorem assembleLine_mov (v : Word) :
    assembleLine ⟨"MOV".toList, [.val v]⟩ = some ⟨encode (.mov .portA), ⟨v, 0#32, 0#32⟩⟩ := rfl

theorem assembleLine_xor32 (x : AsmOperand) (b : Word) :
    assembleLine ⟨"XOR32".toList, [x, .val b]⟩ =
      (firstOperand x).map fun (asel, a) => ⟨encode (.xor32 asel), ⟨a, b, 0#32⟩⟩ := by
  cases x <;> rfl

theorem assembleLine_limit32 (x : AsmOperand) (b c : Word) :
    assembleLine ⟨"LIMIT32".toList, [x, .val b, .val c]⟩ =
      (firstOperand x).map fun (asel, a) => ⟨encode (.limit32 asel), ⟨a, b, c⟩⟩ := by
  cases x <;> rfl

theorem assembleLine_sat16 (x : AsmOperand) :
    assembleLine ⟨"SAT16".toList, [x]⟩ =
      (firstOperand x).map fun (asel, a) => ⟨encode (.sat16 asel), ⟨a, 0#32, 0#32⟩⟩ := by
  cases x <;> rfl

/-- The first operand as written gives its selector, and on a unit that samples the port it drives it has the value
`word` says. -/
theorem firstOperand_of_form {x : AsmOperand} {asel : OpASel} {word : State → Word}
    (h : (x = .regR ∧ asel = .regR ∧ word = fun s => s.r) ∨ (∃ v : Word, x = .val v ∧ asel = .portA ∧ word = fun _ => v)) :
    ∃ a, firstOperand x = some (asel, a) ∧ ∀ b c s, opA asel (sample ⟨a, b, c⟩ s) = word s := by
  rcases h with ⟨rfl, rfl, rfl⟩ | ⟨v, rfl, rfl, rfl⟩
  · exact ⟨0#32, rfl, fun _ _ _ => rfl⟩
  · exact ⟨v, rfl, fun _ _ _ => rfl⟩

/-! ## Pseudo-instructions (30_encoding.md R45) -/

/-- Exclusive or with all ones is the complement. -/
theorem xor32_allOnes (a : Word) : xor32 a 0xFFFFFFFF#32 = ~~~ a :=
  BitVec.xor_allOnes

/-- LIMIT32 with its limits in order is the clamp to them. -/
theorem limit32_of_le (a : Word) {lo hi : Word} (h : lo.toInt ≤ hi.toInt) :
    limit32 a lo hi = BitVec.ofInt 32 (max lo.toInt (min hi.toInt a.toInt)) := by
  have h : s32 lo ≤ s32 hi := h
  have hc : limit32 a lo hi = wrap32 (clamp (s32 a) (s32 lo) (s32 hi)) := by
    by_cases hlo : s32 a < s32 lo
    · simp [limit32, clamp, h.not_gt, hlo, show ¬ s32 hi < s32 a by omega]
    · by_cases hhi : s32 hi < s32 a <;> simp [limit32, clamp, h.not_gt, hlo, hhi]
  rw [hc, clamp_eq _ h]
  rfl

/-- SAT16 is the clamp to the 16-bit range. -/
theorem sat16Word_eq (a : Word) : sat16Word a = BitVec.ofInt 32 (max (-32768) (min 32767 a.toInt)) :=
  congrArg wrap32 (sat16_eq (s32 a))

/-- LDR, and CLR with `v` = 0, is one MOV of a value, which a unit with `FLT` = 0 performs. -/
theorem issue_mov_val (v : Word) {s : State} (hf : s.flt = false) :
    issue exec ⟨encode (.mov .portA), ⟨v, 0#32, 0#32⟩⟩ s =
      .next { s with ports := ⟨v, 0#32, 0#32⟩, r := v, rv := true } :=
  issue_encode rfl ⟨hf, fun h => nomatch h⟩ rfl

/-- Settles O25: each pseudo-instruction's line is its expansion's, whose command is performed by `issue_encode`. -/
theorem pseudoInstructionsHaveTheirEffect : Obligations.PseudoInstructionsHaveTheirEffect := by
  refine ⟨fun v => ⟨_, rfl, assembleLine_mov v, fun s => issue_mov_val v⟩,
    ⟨_, rfl, assembleLine_mov 0#32, fun s => issue_mov_val 0#32⟩, fun x asel word hx => ?_⟩
  obtain ⟨a, hfirst, hword⟩ := firstOperand_of_form hx
  refine ⟨?not, fun lo hi => ?clamp, ?clamp16, rfl, fun b => rfl⟩
  case not =>
    have hline := assembleLine_xor32 x 0xFFFFFFFF#32
    rw [hfirst] at hline
    refine ⟨_, hline, hline, fun s hs => issue_encode rfl hs ?_⟩
    simp only [Instr.asel, operation, hword, xor32_allOnes]
  case clamp =>
    have hline := assembleLine_limit32 x lo hi
    rw [hfirst] at hline
    refine ⟨_, hline, hline, fun s hs hle => issue_encode rfl hs ?_⟩
    simp only [Instr.asel, operation, hword, limit32_of_le _ hle]
  case clamp16 =>
    have hline := assembleLine_sat16 x
    rw [hfirst] at hline
    refine ⟨_, hline, hline, fun s hs => issue_encode rfl hs ?_⟩
    simp only [Instr.asel, operation, hword, sat16Word_eq]

end Sys2Proof.Proofs

/-! PROOFS. The rule of an operation that faults on no operand value, put together from its row of the opcode map and its
value: encoding (30_encoding.md R37, R40), common exceptions (40_saturating.md R46) and result (10_state.md R13). -/

namespace Sys2Proof.Proofs

open Sys2Proof.Machine Sys2Proof.Laws

/-! ## The fixed bits of a command word -/

/-- The fixed bits of a word, those a mask of the `OP` bits and others keeps, match its `OP` where the others are clear. -/
theorem and_mask_eq_opField_iff {m : Word} (hm : ∀ k < 6, m.getLsbD k = true) (w : Word) :
    w &&& m = (opField w).setWidth 32 ↔ ∀ k < 32, 6 ≤ k → m.getLsbD k = true → w.getLsbD k = false := by
  rw [BitVec.eq_of_getLsbD_eq_iff]
  refine forall₂_congr fun k hk => ?_
  by_cases h6 : k < 6
  · simp [opField, hm k h6, h6, hk]
  · simp [opField, hk, Nat.le_of_not_lt h6]

/-- The fixed bits of a CMD-S word beside `OP` are the reserved ones (30_encoding.md R36, R37). -/
theorem getLsbD_fixedMaskS :
    ∀ k < 32, 6 ≤ k → (0xFFFFE0BF#32).getLsbD k = decide (k = 7 ∨ 13 ≤ k) := by decide

/-- The fixed bits of a CMD-N word beside `OP` are all but `ASEL` (30_encoding.md R36, R37). -/
theorem getLsbD_fixedMaskN :
    ∀ k < 32, 6 ≤ k → (0xFFFFFFBF#32).getLsbD k = decide (k ≠ 6) := by decide

/-- `SH` is 0, bit by bit. -/
theorem shField_eq_zero_iff (w : Word) : shField w = 0#5 ↔ ∀ k, 8 ≤ k → k < 13 → w.getLsbD k = false := by
  rw [BitVec.eq_of_getLsbD_eq_iff]
  constructor
  · intro h k h8 h13
    simpa [shField, show k - 8 < 5 by omega, show 8 + (k - 8) = k by omega] using h (k - 8) (by omega)
  · intro h k hk
    simpa [shField, hk] using h (8 + k) (by omega) (by omega)

/-- The fixed bits of a CMD-S word match where no reserved bit is set. -/
theorem fixedBitsS_iff (w : Word) : w &&& 0xFFFFE0BF#32 = (opField w).setWidth 32 ↔ ¬ ReservedSet w := by
  rw [and_mask_eq_opField_iff (by decide), not_reservedSet_iff]
  refine forall₂_congr fun k hk => ⟨fun h h7 => ?_, fun h h6 hm => ?_⟩
  · exact h (by omega) (by rw [getLsbD_fixedMaskS k hk (by omega)]; exact decide_eq_true h7)
  · rw [getLsbD_fixedMaskS k hk h6] at hm
    exact h (of_decide_eq_true hm)

/-- The fixed bits of a CMD-N word match where no reserved bit is set and `SH` is 0. -/
theorem fixedBitsN_iff (w : Word) :
    w &&& 0xFFFFFFBF#32 = (opField w).setWidth 32 ↔ ¬ ReservedSet w ∧ shField w = 0#5 := by
  rw [and_mask_eq_opField_iff (by decide), not_reservedSet_iff, shField_eq_zero_iff]
  have hmask : ∀ k < 32, 7 ≤ k → (0xFFFFFFBF#32).getLsbD k = true := fun k hk h7 => by
    rw [getLsbD_fixedMaskN k hk (by omega)]
    exact decide_eq_true (by omega)
  constructor
  · intro h
    exact ⟨fun k hk h7 => h k hk (by omega) (hmask k hk (by omega)),
      fun k h8 h13 => h k (by omega) (by omega) (hmask k (by omega) (by omega))⟩
  · rintro ⟨hres, hsh⟩ k hk h6 hm
    have hne : k ≠ 6 := by rw [getLsbD_fixedMaskN k hk h6] at hm; exact of_decide_eq_true hm
    by_cases h : k = 7 ∨ 13 ≤ k
    · exact hres k hk h
    · exact hsh k (by omega) (by omega)

/-! ## Encoding -/

/-- Only a CMD-S operation forbids a field value (30_encoding.md R38). -/
theorem wellFormed_of_cmdN {i : Instr} (h : i.format = .cmdN) : i.wellFormed = true := by
  by_contra hw
  obtain ⟨hop, -⟩ := (wellFormed_eq_false_iff i).mp (by simpa using hw)
  exact (format_eq_cmdN_iff i).mp h (by rw [hop]; exact ⟨by decide, by decide⟩)

/-- The words of a CMD-N row of the opcode map. -/
theorem encodedN {op : BitVec 6} {i : OpASel → Instr} (hmap : ∀ asel sh, instrOf op.toNat asel sh = some (i asel))
    (hn : ∀ asel, (i asel).format = .cmdN) : EncodedN op i := by
  rintro w rfl
  obtain ⟨hfault, hok⟩ := decode_of_instrOf (hmap (aselField w) (shField w))
  simp only [hn, true_and, wellFormed_of_cmdN, if_true] at hfault hok
  by_cases h : w &&& 0xFFFFFFBF#32 = (opField w).setWidth 32
  · obtain ⟨hres, hsh⟩ := (fixedBitsN_iff w).mp h
    exact (hok hres (not_not.mpr hsh)).trans (if_pos h).symm
  · have hbad : ReservedSet w ∨ shField w ≠ 0#5 := by
      simpa only [fixedBitsN_iff, not_and_or, not_not] using h
    exact (hfault hbad).trans (if_neg h).symm

/-- The words of a CMD-S row of the opcode map whose operation is legal at every shift amount. -/
theorem encodedS {op : BitVec 6} {i : OpASel → Shift → Instr}
    (hmap : ∀ asel sh, instrOf op.toNat asel sh = some (i asel sh))
    (hs : ∀ asel sh, (i asel sh).format = .cmdS) (hw : ∀ asel sh, (i asel sh).wellFormed = true) : EncodedS op i := by
  rintro w rfl
  obtain ⟨hfault, hok⟩ := decode_of_instrOf (hmap (aselField w) (shField w))
  simp only [hs, hw, reduceCtorEq, false_and, or_false, not_false_eq_true, true_implies, if_true] at hfault hok
  by_cases h : w &&& 0xFFFFE0BF#32 = (opField w).setWidth 32
  · exact (hok ((fixedBitsS_iff w).mp h)).trans (if_pos h).symm
  · exact (hfault (not_not.mp (mt (fixedBitsS_iff w).mpr h))).trans (if_neg h).symm

/-! ## Exceptions and result -/

/-- The common exceptions are those of performing a command, whatever its operation. -/
theorem commonExceptions {i : OpASel → Instr} (hw : ∀ asel, (i asel).wellFormed = true)
    (ha : ∀ asel, (i asel).asel = asel) : CommonExceptions i := by
  refine ⟨fun s => exec_regR_unwritten (hw .regR) (ha .regR), fun asel s hf => ?_⟩
  rw [exec_eq_perform _ (hw asel)]
  exact perform_ignored hf _ _

/-- An accepted command writes the value of its operation. -/
theorem writesResult {i : OpASel → Instr} {v : Word → Word → Word → Word} (hw : ∀ asel, (i asel).wellFormed = true)
    (ha : ∀ asel, (i asel).asel = asel) (hv : ∀ asel a b c, operation (i asel) a b c = .value (v a b c)) :
    WritesResult i v := by
  intro asel s hs
  rw [exec_eq_perform _ (hw asel), ha]
  exact perform_value hs.1 (opAReadable_of_accepts hs) (hv asel _ _ _)

/-! ## Rules -/

/-- The rule of a CMD-N operation, from its row of the opcode map and its value. -/
theorem ruleN {op : BitVec 6} {i : OpASel → Instr} {v : Word → Word → Word → Word}
    (hmap : ∀ asel sh, instrOf op.toNat asel sh = some (i asel)) (hn : ∀ asel, (i asel).format = .cmdN)
    (hv : ∀ asel a b c, operation (i asel) a b c = .value (v a b c)) : RuleN op i v := by
  have hw asel : (i asel).wellFormed = true := wellFormed_of_cmdN (hn asel)
  have ha asel : (i asel).asel = asel := (Encoding.fields_of_instrOf (hmap asel 0#5)).2.1
  exact ⟨encodedN hmap hn, commonExceptions hw ha, writesResult hw ha hv⟩

/-- The rule of a CMD-S operation legal at every shift amount, from its row of the opcode map and its value. -/
theorem ruleS {op : BitVec 6} {i : OpASel → Shift → Instr} {v : Word → Word → Word → Nat → Word}
    (hmap : ∀ asel sh, instrOf op.toNat asel sh = some (i asel sh)) (hs : ∀ asel sh, (i asel sh).format = .cmdS)
    (hw : ∀ asel sh, (i asel sh).wellFormed = true)
    (hv : ∀ asel sh a b c, operation (i asel sh) a b c = .value (v a b c sh.toNat)) : RuleS op i v := by
  have ha sh asel : (i asel sh).asel = asel := (Encoding.fields_of_instrOf (hmap asel sh)).2.1
  exact ⟨encodedS hmap hs hw, fun sh =>
    ⟨commonExceptions (hw · sh) (ha sh), writesResult (hw · sh) (ha sh) (hv · sh)⟩⟩

end Sys2Proof.Proofs

/-! PROOFS. The values of saturating add, subtract and clamp (40_saturating.md) in the terms of the claims, and their rules. -/

namespace Sys2Proof.Proofs

open Sys2Proof.Machine

/-! ## Saturation to 32 bits -/

theorem addSat32_eq (a b : Word) :
    addSat32 a b = BitVec.ofInt 32 (max (-2147483648) (min 2147483647 (a.toInt + b.toInt))) :=
  congrArg wrap32 (sat32_eq (s32 a + s32 b))

theorem subSat32_eq (a b : Word) :
    subSat32 a b = BitVec.ofInt 32 (max (-2147483648) (min 2147483647 (a.toInt - b.toInt))) :=
  congrArg wrap32 (sat32_eq (s32 a - s32 b))

/-- Settles O26, by the values of the two saturating operations. -/
theorem saturatingAddAndSubtract : Obligations.SaturatingAddAndSubtract :=
  ⟨ruleN (fun _ _ => rfl) (fun _ => rfl) fun _ a b _ => congrArg Executed.value (addSat32_eq a b),
    ruleN (fun _ _ => rfl) (fun _ => rfl) fun _ a b _ => congrArg Executed.value (subSat32_eq a b)⟩

/-- The wrapped sum of R49 is the bit vector's. -/
theorem addPosSat32_eq (a b : Word) : addPosSat32 a b = if (a + b).toInt < 0 then 0x7FFFFFFF#32 else a + b := by
  have hsum : wrap32 (s32 a + s32 b) = a + b := by rw [wrap32_add, wrap32_s32, wrap32_s32]
  unfold addPosSat32
  rw [hsum]
  rfl

/-- Settles O27: the sign is tested on the wrapped sum. -/
theorem addPosSat32TestsTheWrappedSum : Obligations.AddPosSat32TestsTheWrappedSum :=
  ruleN (fun _ _ => rfl) (fun _ => rfl) fun _ a b _ => congrArg Executed.value (addPosSat32_eq a b)

/-! ## Saturation to 16 bits -/

/-- The bottom halfword is the word's truncation. -/
theorem lo16_eq_bottom (x : Word) : lo16 x = bottom x := by
  unfold lo16 bottom
  rw [BitVec.setWidth_eq_extractLsb' (by decide)]

theorem addSat16_eq (a b : Word) :
    addSat16 a b = BitVec.ofInt 32 (max (-32768) (min 32767 (bottom a + bottom b))) := by
  rw [← lo16_eq_bottom, ← lo16_eq_bottom]
  exact congrArg wrap32 (sat16_eq (lo16 a + lo16 b))

theorem subSat16_eq (a b : Word) :
    subSat16 a b = BitVec.ofInt 32 (max (-32768) (min 32767 (bottom a - bottom b))) := by
  rw [← lo16_eq_bottom, ← lo16_eq_bottom]
  exact congrArg wrap32 (sat16_eq (lo16 a - lo16 b))

/-- Settles O28, by the values of the two halfword operations and `sat16Word_eq`. -/
theorem sixteenBitSaturation : Obligations.SixteenBitSaturation :=
  ⟨ruleN (fun _ _ => rfl) (fun _ => rfl) fun _ a b _ => congrArg Executed.value (addSat16_eq a b),
    ruleN (fun _ _ => rfl) (fun _ => rfl) fun _ a b _ => congrArg Executed.value (subSat16_eq a b),
    ruleN (fun _ _ => rfl) (fun _ => rfl) fun _ a _ _ => congrArg Executed.value (sat16Word_eq a)⟩

/-! ## Limits -/

/-- Settles O29: `limit32` makes the rule's tests in the rule's order. -/
theorem limit32OrderOfTests : Obligations.Limit32OrderOfTests :=
  ruleN (fun _ _ => rfl) (fun _ => rfl) fun _ _ _ _ => rfl

/-! ## The saturating left shift -/

/-- The left shift of a wrapped number wraps its multiple. -/
theorem lsl_wrap32 (n : Int) (s : Nat) : lsl (wrap32 n) s = wrap32 (n * 2 ^ s) := by
  rw [lsl, wrap32_mul, wrap32_s32, wrap32_mul]

/-- The arithmetic right shift of a number in range is the floor of its quotient. -/
theorem asr_wrap32 {n : Int} (lo : -2147483648 ≤ n) (hi : n ≤ 2147483647) (s : Nat) :
    asr (wrap32 n) s = ⌊(n : ℚ) / 2 ^ s⌋ := by
  rw [asr, s32_wrap32 lo hi, floorShift_eq_floor]

/-- A smaller word shifted right is no greater. -/
theorem asr_mono {x y : Word} (h : s32 x ≤ s32 y) (s : Nat) : asr x s ≤ asr y s :=
  Int.ediv_le_ediv (by positivity) h

/-- The limits of R54 are the floors of the ends of the range over 2^SH, in order, so the clamp is a maximum of a minimum;
the shift then multiplies it. -/
theorem lshiftSat32_eq (a : Word) (sh : Shift) :
    lshiftSat32 a sh = BitVec.ofInt 32
      (max ⌊(-2147483648 : ℚ) / 2 ^ sh.toNat⌋ (min ⌊(2147483647 : ℚ) / 2 ^ sh.toNat⌋ a.toInt) * 2 ^ sh.toNat) := by
  have hlo : asr (wrap32 int32Min) sh.toNat = ⌊(-2147483648 : ℚ) / 2 ^ sh.toNat⌋ := by
    simpa [int32Min] using asr_wrap32 (n := int32Min) (by decide) (by decide) sh.toNat
  have hhi : asr (wrap32 int32Max) sh.toNat = ⌊(2147483647 : ℚ) / 2 ^ sh.toNat⌋ := by
    simpa [int32Max] using asr_wrap32 (n := int32Max) (by decide) (by decide) sh.toNat
  have hle : asr (wrap32 int32Min) sh.toNat ≤ asr (wrap32 int32Max) sh.toNat := asr_mono (by decide) _
  rw [lshiftSat32, lsl_wrap32, clamp_eq _ hle, hlo, hhi]
  rfl

/-- Settles O31, at every shift amount, by the value of the limited shift. -/
theorem lshiftSat32LimitsThenShifts : Obligations.LshiftSat32LimitsThenShifts :=
  ruleS (fun _ _ => rfl) (fun _ _ => rfl) (fun _ _ => rfl) fun _ sh a _ _ =>
    congrArg Executed.value (lshiftSat32_eq a sh)

end Sys2Proof.Proofs

/-! PROOFS. The values of the rounding and plain shifts (41_shift_round.md) in the terms of the claims, their rules, and the
words of RSHIFT_ROUND. -/

namespace Sys2Proof.Proofs

open Sys2Proof.Machine Sys2Proof.Laws

/-! ## Right shifts as floors -/

/-- The arithmetic right shift is the floor of the signed quotient (00_scope.md R8). -/
theorem asr_eq_floor (x : Word) (s : Nat) : asr x s = ⌊(x.toInt : ℚ) / 2 ^ s⌋ :=
  floorShift_eq_floor (s32 x) s

/-- The logical right shift is the floor of the unsigned quotient (00_scope.md R8). -/
theorem lsr_eq_floor (x : Word) (s : Nat) : lsr x s = ⌊(x.toNat : ℚ) / 2 ^ s⌋ := by
  simpa [lsr, u32] using floorShift_eq_floor (u32 x) s

/-! ## Plain shifts -/

/-- Settles O37: the left shift is the bit vector's, the right shifts are the two floors. -/
theorem plainShifts : Obligations.PlainShifts :=
  ⟨ruleS (fun _ _ => rfl) (fun _ _ => rfl) (fun _ _ => rfl) fun _ sh a _ _ =>
      congrArg Executed.value (lsl_eq_shiftLeft a sh.toNat),
    ruleS (fun _ _ => rfl) (fun _ _ => rfl) (fun _ _ => rfl) fun _ sh a _ _ =>
      congrArg (Executed.value ∘ wrap32) (asr_eq_floor a sh.toNat),
    ruleS (fun _ _ => rfl) (fun _ _ => rfl) (fun _ _ => rfl) fun _ sh a _ _ =>
      congrArg (Executed.value ∘ wrap32) (lsr_eq_floor a sh.toNat)⟩

/-! ## Shift, then add or subtract -/

theorem addLshift32_eq (a b : Word) (sh : Shift) : addLshift32 a b sh = a + b <<< sh.toNat := by
  rw [addLshift32, wrap32_add, wrap32_s32, wrap32_s32, lsl_eq_shiftLeft]

theorem addRshift32_eq (a b : Word) (sh : Shift) :
    addRshift32 a b sh = a + BitVec.ofInt 32 ⌊(b.toInt : ℚ) / 2 ^ sh.toNat⌋ := by
  rw [addRshift32, wrap32_add, wrap32_s32, asr_eq_floor, wrap32]

theorem subLshift32_eq (a b : Word) (sh : Shift) : subLshift32 a b sh = a - b <<< sh.toNat := by
  rw [subLshift32, wrap32_sub, wrap32_s32, wrap32_s32, lsl_eq_shiftLeft]

theorem subRshift32_eq (a b : Word) (sh : Shift) :
    subRshift32 a b sh = a - BitVec.ofInt 32 ⌊(b.toInt : ℚ) / 2 ^ sh.toNat⌋ := by
  rw [subRshift32, wrap32_sub, wrap32_s32, asr_eq_floor, wrap32]

/-- Settles O38, by the values of the four operations: wrapping is the bit vector sum or difference with the shifted port. -/
theorem addAndSubtractShifted : Obligations.AddAndSubtractShifted :=
  ⟨ruleS (fun _ _ => rfl) (fun _ _ => rfl) (fun _ _ => rfl) fun _ sh a b _ =>
      congrArg Executed.value (addLshift32_eq a b sh),
    ruleS (fun _ _ => rfl) (fun _ _ => rfl) (fun _ _ => rfl) fun _ sh a b _ =>
      congrArg Executed.value (addRshift32_eq a b sh),
    ruleS (fun _ _ => rfl) (fun _ _ => rfl) (fun _ _ => rfl) fun _ sh a b _ =>
      congrArg Executed.value (subLshift32_eq a b sh),
    ruleS (fun _ _ => rfl) (fun _ _ => rfl) (fun _ _ => rfl) fun _ sh a b _ =>
      congrArg Executed.value (subRshift32_eq a b sh)⟩

/-! ## The rounding shift -/

/-- Rounding to nearest, ties up, is the floor after half a unit of the result's last place is added. -/
theorem rshiftRound_eq (a : Word) (sh : Shift) :
    rshiftRound a sh = BitVec.ofInt 32 ⌊((a.toInt : ℚ) + 2 ^ (sh.toNat - 1)) / 2 ^ sh.toNat⌋ := by
  have h := floorShift_eq_floor (s32 a + 2 ^ (sh.toNat - 1)) sh.toNat
  push_cast at h
  exact congrArg wrap32 h

/-- RSHIFT_ROUND is well formed at every shift amount but 0. -/
theorem wellFormed_rshiftRound {sh : Shift} (h : sh ≠ 0#5) (asel : OpASel) :
    (Instr.rshiftRound asel sh).wellFormed = true :=
  bne_iff_ne.mpr h

/-- The words of the rounding shift's row of the opcode map, the only one that forbids a shift amount. -/
theorem decode_rshiftRound {w : Word} (hop : opField w = 0x18#6) :
    decode w =
      if w &&& 0xFFFFE0BF#32 = 0x18#32 then
        if shField w = 0#5 then .fault .badShift else .ok (.rshiftRound (aselField w) (shField w))
      else .fault .reservedField := by
  have hmap : instrOf (opField w).toNat (aselField w) (shField w) = some (.rshiftRound (aselField w) (shField w)) := by
    rw [hop]; rfl
  have hfixed : w &&& 0xFFFFE0BF#32 = 0x18#32 ↔ ¬ ReservedSet w := by
    have h := fixedBitsS_iff w
    rwa [hop] at h
  by_cases hr : ReservedSet w
  · rw [if_neg (hfixed.not_left.mpr hr)]
    exact (decode_of_instrOf hmap).1 (.inl hr)
  · rw [if_pos (hfixed.mpr hr)]
    by_cases hsh : shField w = 0#5
    · rw [if_pos hsh]
      exact decode_badShift hr hop hsh
    · rw [if_neg hsh, (decode_of_instrOf hmap).2 hr (fun h => nomatch h.1), if_pos (wellFormed_rshiftRound hsh _)]

/-- Settles O35: the words by `decode_rshiftRound`; at a shift amount that is not 0 the instruction is well formed, so its
exceptions and its result are those of performing its operation. -/
theorem rshiftRoundRoundsToNearest : Obligations.RshiftRoundRoundsToNearest := by
  refine ⟨fun w hop => decode_rshiftRound hop, fun sh hsh => ⟨?_, ?_⟩⟩
  · exact commonExceptions (wellFormed_rshiftRound hsh) fun _ => rfl
  · exact writesResult (wellFormed_rshiftRound hsh) (fun _ => rfl) fun _ a _ _ =>
      congrArg Executed.value (rshiftRound_eq a sh)

end Sys2Proof.Proofs

/-! PROOFS. The values of the Q-format multiplies and multiply-accumulates (42_mac.md) in the terms of the claims, the ranges
of their products, and their rules. -/

namespace Sys2Proof.Proofs

open Sys2Proof.Machine

/-! ## The two halves of a word -/

/-- The top halfword is the floor of the word over 2^16. -/
theorem hi16_eq_top (x : Word) : hi16 x = top x :=
  (hi16_eq_asr x).trans (asr_eq_floor x 16)

theorem bottom_bounds (x : Word) : -32768 ≤ bottom x ∧ bottom x ≤ 32767 :=
  lo16_eq_bottom x ▸ lo16_bounds x

theorem top_bounds (x : Word) : -32768 ≤ top x ∧ top x ≤ 32767 :=
  hi16_eq_top x ▸ hi16_bounds x

/-! ## Products of two halfwords -/

theorem smulbb_eq (a b : Word) : smulbb a b = BitVec.ofInt 32 (bottom a * bottom b) := by
  rw [smulbb, lo16_eq_bottom, lo16_eq_bottom, wrap32]

theorem smlabb_eq (a b c : Word) : smlabb a b c = BitVec.ofInt 32 (a.toInt + bottom b * bottom c) := by
  rw [smlabb, lo16_eq_bottom, lo16_eq_bottom, wrap32, s32]

theorem smulbt_eq (a b : Word) : smulbt a b = BitVec.ofInt 32 (bottom a * top b) := by
  rw [smulbt, lo16_eq_bottom, hi16_eq_top, wrap32]

theorem smlabt_eq (a b c : Word) : smlabt a b c = BitVec.ofInt 32 (a.toInt + bottom b * top c) := by
  rw [smlabt, lo16_eq_bottom, hi16_eq_top, wrap32, s32]

/-- The product is linear in each factor, so its extremes are at the corners of the range: both factors -2^15 above, one of
them and 2^15 - 1 below. -/
theorem halfword_mul_bounds {x y : Int} (hx : -32768 ≤ x ∧ x ≤ 32767) (hy : -32768 ≤ y ∧ y ≤ 32767) :
    -1073709056 ≤ x * y ∧ x * y ≤ 1073741824 := by
  rcases le_total 0 y with h | h
  · have hlo := mul_le_mul_of_nonneg_right hx.1 h
    have hhi := mul_le_mul_of_nonneg_right hx.2 h
    constructor <;> linarith
  · have hlo := mul_le_mul_of_nonpos_right hx.2 h
    have hhi := mul_le_mul_of_nonpos_right hx.1 h
    constructor <;> linarith

/-- Settles O39: the values of the four operations, whose halfwords are `bottom` and `top`, and the range of a product of two
halfwords. -/
theorem halfwordProducts : Obligations.HalfwordProducts := by
  refine ⟨ruleN (fun _ _ => rfl) (fun _ => rfl) fun _ a b _ => congrArg Executed.value (smulbb_eq a b),
    ruleN (fun _ _ => rfl) (fun _ => rfl) fun _ a b c => congrArg Executed.value (smlabb_eq a b c),
    ruleN (fun _ _ => rfl) (fun _ => rfl) fun _ a b _ => congrArg Executed.value (smulbt_eq a b),
    ruleN (fun _ _ => rfl) (fun _ => rfl) fun _ a b c => congrArg Executed.value (smlabt_eq a b c),
    fun a b => ?_⟩
  obtain ⟨hbb, hbb'⟩ := halfword_mul_bounds (bottom_bounds a) (bottom_bounds b)
  obtain ⟨hbt, hbt'⟩ := halfword_mul_bounds (bottom_bounds a) (top_bounds b)
  exact ⟨hbb, hbb', hbt, hbt'⟩

/-! ## Products of a word and a halfword -/

/-- The scaled product is the floor of the exact one over 2^16. -/
theorem scaled_eq_floor (x y : Int) : scaled x y = ⌊((x * y : Int) : ℚ) / 2 ^ 16⌋ :=
  floorShift_eq_floor (x * y) 16

theorem smulwb_eq (a b : Word) :
    smulwb a b = BitVec.ofInt 32 ⌊((a.toInt * bottom b : Int) : ℚ) / 2 ^ 16⌋ := by
  rw [smulwb, scaled_eq_floor, lo16_eq_bottom, wrap32, s32]

theorem smlawb_eq (a b c : Word) :
    smlawb a b c = BitVec.ofInt 32 (a.toInt + ⌊((b.toInt * bottom c : Int) : ℚ) / 2 ^ 16⌋) := by
  rw [smlawb, scaled_eq_floor, lo16_eq_bottom, wrap32, s32, s32]

theorem smulwt_eq (a b : Word) :
    smulwt a b = BitVec.ofInt 32 ⌊((a.toInt * top b : Int) : ℚ) / 2 ^ 16⌋ := by
  rw [smulwt, scaled_eq_floor, hi16_eq_top, wrap32, s32]

theorem smlawt_eq (a b c : Word) :
    smlawt a b c = BitVec.ofInt 32 (a.toInt + ⌊((b.toInt * top c : Int) : ℚ) / 2 ^ 16⌋) := by
  rw [smlawt, scaled_eq_floor, hi16_eq_top, wrap32, s32, s32]

/-- A word's value is at most 2^31 in magnitude and a halfword's at most 2^15, so their product is at most 2^46 and the
scaled product at most 2^30. -/
theorem scaled_bounds (x : Word) {y : Int} (hy : -32768 ≤ y ∧ y ≤ 32767) :
    -1073741824 ≤ scaled (s32 x) y ∧ scaled (s32 x) y ≤ 1073741824 := by
  obtain ⟨hx1, hx2⟩ := s32_bounds x
  have hprod : |s32 x * y| ≤ 2147483648 * 32768 := by
    rw [abs_mul]
    exact mul_le_mul (abs_le.mpr (by omega)) (abs_le.mpr (by omega)) (abs_nonneg y) (by decide)
  obtain ⟨hlo, hhi⟩ := abs_le.mp hprod
  unfold scaled floorShift
  omega

theorem floor_word_mul_halfword_bounds (x : Word) {y : Int} (hy : -32768 ≤ y ∧ y ≤ 32767) :
    -1073741824 ≤ ⌊((x.toInt * y : Int) : ℚ) / 2 ^ 16⌋ ∧ ⌊((x.toInt * y : Int) : ℚ) / 2 ^ 16⌋ ≤ 1073741824 := by
  simpa only [scaled_eq_floor, s32] using scaled_bounds x hy

/-- Settles O40: the values of the four operations, whose scaling is the floor, and the range of a scaled product. -/
theorem wordByHalfwordProducts : Obligations.WordByHalfwordProducts := by
  refine ⟨ruleN (fun _ _ => rfl) (fun _ => rfl) fun _ a b _ => congrArg Executed.value (smulwb_eq a b),
    ruleN (fun _ _ => rfl) (fun _ => rfl) fun _ a b c => congrArg Executed.value (smlawb_eq a b c),
    ruleN (fun _ _ => rfl) (fun _ => rfl) fun _ a b _ => congrArg Executed.value (smulwt_eq a b),
    ruleN (fun _ _ => rfl) (fun _ => rfl) fun _ a b c => congrArg Executed.value (smlawt_eq a b c),
    fun a b => ?_⟩
  obtain ⟨hwb, hwb'⟩ := floor_word_mul_halfword_bounds a (bottom_bounds b)
  obtain ⟨hwt, hwt'⟩ := floor_word_mul_halfword_bounds a (top_bounds b)
  exact ⟨hwb, hwb', hwt, hwt'⟩

/-! ## Products of two words -/

theorem smulww_eq (a b : Word) :
    smulww a b = BitVec.ofInt 32 ⌊((a.toInt * b.toInt : Int) : ℚ) / 2 ^ 16⌋ := by
  rw [smulww, scaled_eq_floor, wrap32, s32, s32]

theorem smlaww_eq (a b c : Word) :
    smlaww a b c = BitVec.ofInt 32 (a.toInt + ⌊((b.toInt * c.toInt : Int) : ℚ) / 2 ^ 16⌋) := by
  rw [smlaww, scaled_eq_floor, wrap32, s32, s32, s32]

/-- The low 32 bits of the signed product are the bit vector product, whichever reading the factors have. -/
theorem mul32_eq (a b : Word) : mul32 a b = a * b := by
  rw [mul32, wrap32_mul, wrap32_s32, wrap32_s32]

theorem mla32_eq (a b c : Word) : mla32 a b c = a + b * c := by
  rw [mla32, wrap32_add, wrap32_mul, wrap32_s32, wrap32_s32, wrap32_s32]

/-- Settles O41: the two scaled products are wrapped floors, and the two whole ones are bit vector arithmetic. -/
theorem wordByWordProducts : Obligations.WordByWordProducts :=
  ⟨ruleN (fun _ _ => rfl) (fun _ => rfl) fun _ a b _ => congrArg Executed.value (smulww_eq a b),
    ruleN (fun _ _ => rfl) (fun _ => rfl) fun _ a b c => congrArg Executed.value (smlaww_eq a b c),
    ruleN (fun _ _ => rfl) (fun _ => rfl) fun _ a b _ => congrArg Executed.value (mul32_eq a b),
    ruleN (fun _ _ => rfl) (fun _ => rfl) fun _ a b c => congrArg Executed.value (mla32_eq a b c)⟩

end Sys2Proof.Proofs

/-! PROOFS. The values of the supporting integer operations (43_support.md) in the terms of the claims, their rules, and the
two outcomes of the division. -/

namespace Sys2Proof.Proofs

open Sys2Proof.Machine

/-! ## Move and wrapping arithmetic -/

theorem add32_eq (a b : Word) : add32 a b = a + b := by
  rw [add32, wrap32_add, wrap32_s32, wrap32_s32]

theorem sub32_eq (a b : Word) : sub32 a b = a - b := by
  rw [sub32, wrap32_sub, wrap32_s32, wrap32_s32]

theorem neg32_eq (a : Word) : neg32 a = -a := by
  rw [neg32, wrap32_neg, wrap32_s32]

/-- Settles O46: wrapping the exact sum, difference and negation is bit vector arithmetic. -/
theorem moveAndWrappingArithmetic : Obligations.MoveAndWrappingArithmetic :=
  ⟨ruleN (fun _ _ => rfl) (fun _ => rfl) fun _ _ _ _ => rfl,
    ruleN (fun _ _ => rfl) (fun _ => rfl) fun _ a b _ => congrArg Executed.value (add32_eq a b),
    ruleN (fun _ _ => rfl) (fun _ => rfl) fun _ a b _ => congrArg Executed.value (sub32_eq a b),
    ruleN (fun _ _ => rfl) (fun _ => rfl) fun _ a _ _ => congrArg Executed.value (neg32_eq a)⟩

/-! ## Absolute value, maximum and minimum -/

theorem abs32_eq (a : Word) : abs32 a = if a.toInt > 0 then a else -a := by
  rw [abs32, wrap32_neg, wrap32_s32]
  rfl

/-- The greater operand is the word of the greater value. -/
theorem max32_eq (a b : Word) : max32 a b = BitVec.ofInt 32 (max a.toInt b.toInt) := by
  unfold max32 s32
  split
  case isTrue h => rw [max_eq_left h.le, BitVec.ofInt_toInt]
  case isFalse h => rw [max_eq_right (not_lt.mp h), BitVec.ofInt_toInt]

/-- The smaller operand is the word of the smaller value. -/
theorem min32_eq (a b : Word) : min32 a b = BitVec.ofInt 32 (min a.toInt b.toInt) := by
  unfold min32 s32
  split
  case isTrue h => rw [min_eq_left h.le, BitVec.ofInt_toInt]
  case isFalse h => rw [min_eq_right (not_lt.mp h), BitVec.ofInt_toInt]

/-- Settles O47, by the values of the three operations. -/
theorem absoluteValueMaximumMinimum : Obligations.AbsoluteValueMaximumMinimum :=
  ⟨ruleN (fun _ _ => rfl) (fun _ => rfl) fun _ a _ _ => congrArg Executed.value (abs32_eq a),
    ruleN (fun _ _ => rfl) (fun _ => rfl) fun _ a b _ => congrArg Executed.value (max32_eq a b),
    ruleN (fun _ _ => rfl) (fun _ => rfl) fun _ a b _ => congrArg Executed.value (min32_eq a b)⟩

/-! ## Division -/

/-- Division rounding toward zero is the floor of the quotient of the magnitudes, under the product of the signs
(00_scope.md R8). Where the magnitude of the dividend is the smaller, both are 0. -/
theorem tdiv_eq_sign_mul_floor (n d : Int) :
    tdiv n d = n.sign * d.sign * ⌊(n.natAbs : ℚ) / (d.natAbs : ℚ)⌋ := by
  have hsign : (n.tdiv d).sign = if n.natAbs < d.natAbs then 0 else n.sign * d.sign := Int.sign_tdiv n d
  have hmag : (n.tdiv d).natAbs = n.natAbs / d.natAbs := Int.natAbs_tdiv n d
  have hfloor : ⌊(n.natAbs : ℚ) / (d.natAbs : ℚ)⌋ = ((n.natAbs / d.natAbs : Nat) : Int) :=
    Rat.floor_natCast_div_natCast n.natAbs d.natAbs
  rw [tdiv, ← Int.sign_mul_natAbs (n.tdiv d), hsign, hmag, hfloor]
  split
  case isTrue h => rw [Nat.div_eq_of_lt h, Nat.cast_zero, mul_zero, mul_zero]
  case isFalse => rfl

theorem s32_eq_zero_iff (x : Word) : s32 x = 0 ↔ x = 0#32 :=
  BitVec.toInt_inj (y := 0#32)

theorem div32_of_ne_zero (a : Word) {b : Word} (hb : b ≠ 0#32) :
    div32 a b = .value (BitVec.ofInt 32
      (a.toInt.sign * b.toInt.sign * ⌊(a.toInt.natAbs : ℚ) / (b.toInt.natAbs : ℚ)⌋)) := by
  rw [div32, if_neg (mt (s32_eq_zero_iff b).mp hb), tdiv_eq_sign_mul_floor, wrap32, s32, s32]

theorem div32_of_eq_zero (a : Word) {b : Word} (hb : b = 0#32) : div32 a b = .fault .divZero := by
  rw [div32, if_pos ((s32_eq_zero_iff b).mpr hb)]

/-- Settles O48: the words and the common exceptions are those of every CMD-N operation; an accepted command performs
`div32`, which has the rule's value for a nonzero divisor and the fault for a zero one. -/
theorem div32TruncatesAndFaultsOnZero : Obligations.Div32TruncatesAndFaultsOnZero := by
  refine ⟨encodedN (fun _ _ => rfl) fun _ => rfl, commonExceptions (fun _ => rfl) fun _ => rfl,
    fun asel s hs hb => ?_, fun asel s hs hb => ?_⟩
  · rw [exec_eq_perform _ rfl]
    exact perform_value hs.1 (opAReadable_of_accepts hs) (div32_of_ne_zero _ hb)
  · rw [exec_eq_perform _ rfl]
    exact perform_fault (c := .divZero) hs.1 (opAReadable_of_accepts hs) (div32_of_eq_zero _ hb)

/-! ## Bitwise operations -/

/-- Settles O49: the values of the three operations are the bit vector's by definition. -/
theorem bitwiseOperations : Obligations.BitwiseOperations :=
  ⟨ruleN (fun _ _ => rfl) (fun _ => rfl) fun _ _ _ _ => rfl,
    ruleN (fun _ _ => rfl) (fun _ => rfl) fun _ _ _ _ => rfl,
    ruleN (fun _ _ => rfl) (fun _ => rfl) fun _ _ _ _ => rfl⟩

/-! ## Leading zeros -/

theorem clz32_zero : clz32 0#32 = 32#32 := rfl

/-- A word that is not 0 has a most significant 1, and above place i of a word there are 31 - i bits. -/
theorem clz32_of_ne_zero {a : Word} (h : a ≠ 0#32) :
    ∃ i : Nat, i < 32 ∧ a.getLsbD i = true ∧ (∀ j : Nat, i < j → a.getLsbD j = false) ∧
      clz32 a = BitVec.ofNat 32 (31 - i) := by
  rcases topBit_spec a 32 with ⟨-, hzero⟩ | ⟨i, hi, htop, hset, habove⟩
  · exact absurd (BitVec.eq_of_getLsbD_eq fun j hj => by simp [hzero j hj]) h
  · have hclear : ∀ j, i < j → a.getLsbD j = false := fun j hij => by
      by_cases hj : j < 32
      · exact habove j hij hj
      · exact BitVec.getLsbD_of_ge a j (not_lt.mp hj)
    have hcount : (31 : Int) - i = ((31 - i : Nat) : Int) := by omega
    refine ⟨i, hi, hset, hclear, ?_⟩
    simp only [clz32, htop, hcount, wrap32, BitVec.ofInt_natCast]

/-- Settles O51: the rule of an operation whose value is `clz32`, and that value at zero and at any other word. -/
theorem clz32CountsLeadingZeros : Obligations.Clz32CountsLeadingZeros := by
  have hrule : RuleN 0x0C#6 .clz32 fun a _ _ => clz32 a :=
    ruleN (fun _ _ => rfl) (fun _ => rfl) fun _ _ _ _ => rfl
  obtain ⟨hwords, hexceptions, hresult⟩ := hrule
  refine ⟨hwords, hexceptions, fun asel s hs =>
    ⟨clz32 (opA asel s), hresult asel s hs, fun h => ?_, clz32_of_ne_zero⟩⟩
  rw [h, clz32_zero]

/-! ## The generator -/

theorem rand_eq (a : Word) : rand a = 907633515#32 + a * 196314165#32 := by
  rw [rand, wrap32_add, wrap32_mul, wrap32_s32]
  rfl

/-- Settles O52: wrapping the exact step is the bit vector's. -/
theorem randStepsTheGenerator : Obligations.RandStepsTheGenerator :=
  ruleN (fun _ _ => rfl) (fun _ => rfl) fun _ a _ _ => congrArg Executed.value (rand_eq a)

end Sys2Proof.Proofs

/-! PROOFS. Faults (60_exceptions.md): what a faulted unit does, what fault entry writes, and which cause a command reports
(R97 to R99). -/

namespace Sys2Proof.Proofs

open Sys2Proof.Machine

/-! ## A faulted unit -/

/-- While `FLT` = 1 a command is taken off the host's list and nothing else happens. -/
theorem step_ignored {s : State} {c : Command} {rest : List HostAction} (hf : s.flt = true)
    (hp : s.pending = .issue c :: rest) : step s = .next { s with pending := rest } := by
  rw [step_act hp]
  simp [act, issue, hf]

/-- Settles O10: the step on each action of the host that is no reset; what is read of `R` is `readR s`. -/
theorem faultedUnitIgnoresCommands : Obligations.FaultedUnitIgnoresCommands :=
  fun s _ hf => ⟨fun _ => step_ignored hf, fun hp => ⟨readR s, step_readR hp, readR_of_rv⟩, step_readStatus⟩

/-! ## Fault entry -/

/-- Settles O9: of the three things a command can do, only fault entry leads from `FLT` = 0 to `FLT` = 1. -/
theorem faultEntryWritesOnlyFltAndCause : Obligations.FaultEntryWritesOnlyFltAndCause := by
  intro s t c rest hf hp hs ht
  have hi : issue exec c { s with pending := rest } = .next t := (step_act hp).symm.trans hs
  rcases issue_cases c { s with pending := rest } with ⟨hfaulted, -⟩ | ⟨-, e, hfault⟩ | ⟨-, v, hvalue⟩
  · exact absurd hf (ne_false_of_eq_true hfaulted)
  · cases hfault.symm.trans hi
    exact ⟨e, rfl⟩
  · cases hvalue.symm.trans hi
    exact absurd hf (ne_false_of_eq_true ht)

/-! ## The checks after decoding, in order (60_exceptions.md R97) -/

/-- The first operand is `R` where bit 6 of the word is set (30_encoding.md R36, R39). -/
theorem aselField_eq_regR_iff (w : Word) : aselField w = .regR ↔ w.getLsbD 6 = true := by
  simp [aselField]

theorem opcode_eq_div32_iff (i : Instr) : i.opcode = 0x08#6 ↔ ∃ asel, i = .div32 asel := by
  cases i <;> simp [Instr.opcode]

/-- DIV32 is the operation that faults by its divisor. -/
theorem operation_divZero {i : Instr} {b : Word} (hop : i.opcode = 0x08#6) (hb : b = 0#32) (a c : Word) :
    operation i a b c = .fault .divZero := by
  obtain ⟨asel, rfl⟩ := (opcode_eq_div32_iff i).mp hop
  exact div32_of_eq_zero a hb

/-- Beside DIV32 by 0 every operation has a value. -/
theorem operation_value {i : Instr} {b : Word} (h : ¬ (i.opcode = 0x08#6 ∧ b = 0#32)) (a c : Word) :
    ∃ v, operation i a b c = .value v :=
  (operation_cases i a b c).resolve_right fun ⟨hdiv, hb, _⟩ => h ⟨(opcode_eq_div32_iff i).mpr hdiv, hb⟩

/-- The divisor is checked last: the unit accepts the command's selector. -/
theorem exec_divZero {i : Instr} {s : State} (hi : i.wellFormed = true) (hs : Accepts i.asel s)
    (hop : i.opcode = 0x08#6) (hb : s.ports.b = 0#32) : exec i s = .next (takeFault .divZero s) := by
  rw [exec_eq_perform i hi]
  exact perform_fault hs.1 (opAReadable_of_accepts hs) (operation_divZero hop hb _ _)

/-- An accepted command that does not divide by 0 is performed. -/
theorem exec_value {i : Instr} {s : State} (hi : i.wellFormed = true) (hs : Accepts i.asel s)
    (h : ¬ (i.opcode = 0x08#6 ∧ s.ports.b = 0#32)) : ∃ v, exec i s = .next (writeR v s) := by
  obtain ⟨v, hv⟩ := operation_value h (opA i.asel s) s.ports.c
  rw [exec_eq_perform i hi]
  exact ⟨v, perform_value hs.1 (opAReadable_of_accepts hs) hv⟩

/-- A command whose word decodes runs its instruction on the operand words it came with. -/
theorem step_of_decode_ok {s : State} {c : Command} {rest : List HostAction} {i : Instr} (hf : s.flt = false)
    (hp : s.pending = .issue c :: rest) (hd : decode c.word = .ok i) :
    step s = exec i { s with pending := rest, ports := c.ports } := by
  rw [step_act hp]
  simp [act, issue, hf, hd, sample]

/-- A word that decodes stands for a well-formed instruction: the decoder's last check. -/
theorem wellFormed_of_decode_ok {w : Word} {i : Instr} (h : decode w = .ok i) : i.wellFormed = true := by
  unfold decode at h
  split at h
  case h_1 => cases h
  case h_2 j _ =>
    split_ifs at h with _ _ hw
    cases h
    simpa using hw

/-- Settles O11: the causes of decoding by the decoder's lemma for each clause, then those of the decoded instruction. -/
theorem faultPriority : Obligations.FaultPriority := by
  intro s c rest hp
  obtain ⟨t, hact⟩ := act_next (.issue c) { s with pending := rest }
  have ht : step s = .next t := (step_act hp).trans hact
  refine ⟨t, ht, fun hf => ?ignored, fun hf => ?checked⟩
  case ignored =>
    cases ht.symm.trans (step_ignored hf hp)
    rfl
  case checked =>
    have hfault {e : Cause} (hd : decode c.word = .fault e) : t.flt = true ∧ t.cause = e.code := by
      cases ht.symm.trans (step_of_decode_fault hf hp hd)
      exact ⟨rfl, rfl⟩
    refine ⟨fun hu => hfault (decode_illegalOp hu), fun hu => ⟨fun hr => hfault (decode_reservedField hu (.inl hr)),
      fun hr => ⟨fun hn => hfault (decode_reservedField hu (.inr hn)),
        fun ⟨hop, hsh⟩ => hfault (decode_badShift hr hop hsh), fun hn hb => ?decoded⟩⟩⟩
    obtain ⟨i, hd, hop, hasel, -⟩ := decode_ok hu hr hn hb
    have hi : i.wellFormed = true := wellFormed_of_decode_ok hd
    have hregR : i.asel = .regR ↔ c.word.getLsbD 6 = true := hasel ▸ aselField_eq_regR_iff c.word
    have hexec : exec i { s with pending := rest, ports := c.ports } = .next t :=
      (step_of_decode_ok hf hp hd).symm.trans ht
    refine ⟨fun ⟨h6, hv⟩ => ?unwritten, fun hread => ?readable⟩
    case unwritten =>
      cases hexec.symm.trans (exec_regR_unwritten hi (hregR.mpr h6) hf hv)
      exact ⟨rfl, rfl⟩
    case readable =>
      have hs : Accepts i.asel { s with pending := rest, ports := c.ports } :=
        ⟨hf, fun ha => by simpa [hregR.mp ha] using hread⟩
      refine ⟨fun ⟨hdiv, hb0⟩ => ?divZero, fun hdiv => ?value⟩
      case divZero =>
        cases hexec.symm.trans (exec_divZero hi hs (hop.trans hdiv) hb0)
        exact ⟨rfl, rfl⟩
      case value =>
        obtain ⟨v, hv⟩ := exec_value hi hs fun ⟨h8, hb0⟩ => hdiv ⟨hop.symm.trans h8, hb0⟩
        cases hexec.symm.trans hv
        exact ⟨hf, rfl, rfl⟩

end Sys2Proof.Proofs

/-! PROOFS. Reset (70_reset_and_hazards.md R111, R112): its one effect, in either form, and that `FLT`, like `RV`, is cleared by
nothing else. -/

namespace Sys2Proof.Proofs

open Sys2Proof.Machine

/-! ## What reset does -/

/-- The host's two forms of reset (70_reset_and_hazards.md R111, R112). -/
theorem assertsReset_iff (h : HostAction) :
    assertsReset h = true ↔ h = .reset ∨ ∃ c : Command, h = .resetDuring c := by
  cases h <;> simp [assertsReset]

/-- Reset has one effect, whether it is asserted alone or during a command. -/
theorem step_assertsReset {s : State} {h : HostAction} {rest : List HostAction} (hp : s.pending = h :: rest)
    (hr : assertsReset h = true) : step s = .next (resetUnit { s with pending := rest }) := by
  rcases (assertsReset_iff h).mp hr with rfl | ⟨c, rfl⟩
  · exact step_act hp
  · exact step_act hp

/-- `STATUS` is a view of `RV`, `FLT` and `CAUSE`, which a reset leaves as they are at power-up. -/
theorem status_resetUnit (s : State) : status (resetUnit s) = 0#32 :=
  status_reset

/-! ## What clears `FLT` and `RV` -/

/-- Only reset clears `FLT` (60_exceptions.md R100): a command is ignored, and a read leaves the unit as it was. -/
theorem flt_kept_without_reset {s t : State} {h : HostAction} {rest : List HostAction} (hp : s.pending = h :: rest)
    (hs : step s = .next t) (hr : assertsReset h = false) (hf : s.flt = true) : t.flt = true := by
  cases h with
  | issue c => cases (step_ignored hf hp).symm.trans hs; exact hf
  | readR => cases (step_readR hp).symm.trans hs; exact hf
  | readStatus => cases (step_readStatus hp).symm.trans hs; exact hf
  | reset => cases hr
  | resetDuring c => cases hr

/-- An action after which `FLT` or `RV` is no longer set asserts reset. -/
theorem assertsReset_of_cleared {s t : State} {h : HostAction} {rest : List HostAction} (hp : s.pending = h :: rest)
    (hs : step s = .next t) (hclear : (s.flt = true ∧ t.flt = false) ∨ (s.rv = true ∧ t.rv = false)) :
    assertsReset h = true := by
  by_contra hr
  have hr : assertsReset h = false := Bool.eq_false_of_not_eq_true hr
  rcases hclear with ⟨hf, ht⟩ | ⟨hv, ht⟩
  · exact absurd (flt_kept_without_reset hp hs hr hf) (ne_true_of_eq_false ht)
  · exact absurd (rv_kept_without_reset hp hs hr hv) (ne_true_of_eq_false ht)

/-- Settles O18: both forms of reset step to `resetUnit`; a step that clears a flag is not the idle one, so the host acts in
it, and that action asserts reset. -/
theorem resetClearsTheStatusState : Obligations.ResetClearsTheStatusState := by
  refine ⟨⟨rfl, rfl, rfl, status_reset⟩, fun s h rest hreset hp => ?reset, fun s t hs hclear => ?cleared⟩
  case reset =>
    exact ⟨_, step_assertsReset hp ((assertsReset_iff h).mpr hreset), status_resetUnit _, rfl⟩
  case cleared =>
    cases hp : s.pending with
    | nil =>
      cases (step_idle hp).symm.trans hs
      simp at hclear
    | cons h rest => exact ⟨h, rest, rfl, assertsReset_of_cleared hp hs hclear⟩

end Sys2Proof.Proofs

/-! PROOFS. The encoding's round trip in both directions (30_encoding.md R36, R40, R43), and the words of the assembly examples. -/

namespace Sys2Proof.Proofs

open Sys2Proof.Machine Sys2Proof.Laws

/-! ## The instruction of a word that decodes -/

/-- A word that decodes has none of the four defects (30_encoding.md R41). -/
theorem noDefect_of_decode_ok {w : Word} {i : Instr} (h : decode w = .ok i) :
    ¬ Unassigned (opField w) ∧ ¬ ReservedSet w ∧ ¬ (¬ ReadsShift (opField w) ∧ shField w ≠ 0#5) ∧
      ¬ (opField w = 0x18#6 ∧ shField w = 0#5) := by
  have hok {e : Cause} : decode w ≠ .fault e := by simp [h]
  have hu : ¬ Unassigned (opField w) := fun hu => hok (decode_illegalOp hu)
  have hr : ¬ ReservedSet w := fun hr => hok (decode_reservedField hu (.inl hr))
  exact ⟨hu, hr, fun hn => hok (decode_reservedField hu (.inr hn)), fun ⟨hop, hsh⟩ => hok (decode_badShift hr hop hsh)⟩

/-- The instruction of a word that decodes has the word's fields, so its encoding is the word. -/
theorem encode_of_decode_ok {w : Word} {i : Instr} (h : decode w = .ok i) : encode i = w := by
  obtain ⟨hu, hr, hn, hb⟩ := noDefect_of_decode_ok h
  obtain ⟨j, hj, hop, hasel, hsh⟩ := decode_ok hu hr hn hb
  cases h.symm.trans hj
  exact Encoding.encode_eq_of_fields hop hasel hsh ((reservedClear_iff w).mpr hr)

/-- Settles O2, by the fields of an encoded word. -/
theorem encodedInstructionsDecodeBack : Obligations.EncodedInstructionsDecodeBack :=
  fun _ => decode_encode

/-- Settles O3: the four checks leave no bit of the word that the instruction's fields do not give back. -/
theorem decodedWordsEncodeBack : Obligations.DecodedWordsEncodeBack :=
  fun _ _ h => ⟨encode_of_decode_ok h, wellFormed_of_decode_ok h⟩

/-- Settles O4: each of the eight words is the encoding of its instruction. -/
theorem assembledExampleWordsDecode : Obligations.AssembledExampleWordsDecode :=
  ⟨decode_encode (i := .smlawb .regR) rfl, decode_encode (i := .rshiftRound .regR 13#5) rfl,
    decode_encode (i := .addSat32 .portA) rfl, decode_encode (i := .lshiftSat32 .portA 16#5) rfl,
    decode_encode (i := .subRshift32 .regR 4#5) rfl, decode_encode (i := .limit32 .regR) rfl,
    decode_encode (i := .mla32 .portA) rfl, decode_encode (i := .clz32 .regR) rfl⟩

end Sys2Proof.Proofs

/-! PROOFS. What a step and a run can do: that each completes (70_reset_and_hazards.md R115), the three outcomes of a command
(60_exceptions.md R94, R96), and what changes `R`. -/

namespace Sys2Proof.Proofs

open Sys2Proof.Machine

/-! ## Steps and runs complete -/

/-- Every step answers a next state. -/
theorem step_next (s : State) : ∃ t, step s = .next t := by
  cases hp : s.pending with
  | nil => exact ⟨s, step_idle hp⟩
  | cons h rest =>
    obtain ⟨t, ht⟩ := act_next h { s with pending := rest }
    exact ⟨t, (step_act hp).trans ht⟩

/-- A run is its first step and then the run of the state that answers. -/
theorem run_succ_of_step {s t : State} (h : step s = .next t) (k : Nat) :
    Host.Core.run core (k + 1) s = Host.Core.run core k t := by
  have hcore : core.step s = .next t := h
  simp only [Host.Core.run, hcore]

/-- Settles O7, by induction on the number of steps. -/
theorem everyRunCompletes : Obligations.EveryRunCompletes := by
  intro k
  induction k with
  | zero => exact fun s => ⟨s, rfl⟩
  | succ k ih =>
    intro s
    obtain ⟨t, ht⟩ := step_next s
    obtain ⟨u, hu⟩ := ih t
    exact ⟨u, (run_succ_of_step ht k).trans hu⟩

/-- Settles O23: a system's step puts that unit's own next state in its place. -/
theorem instancesShareNoState : Obligations.InstancesShareNoState := by
  intro n k sys
  obtain ⟨t, ht⟩ := step_next sys[k]
  refine ⟨sys.set k t, ?_, ?_, fun j hj => ?_⟩
  · simp only [systemStep, ht]
  · rw [ht, Fin.getElem_fin, Vector.getElem_set_self]
  · exact Vector.getElem_set_ne k.isLt j.isLt (Fin.val_ne_of_ne hj.symm)

/-! ## The outcomes of a command -/

/-- Settles O6, by `step_of_decode_ok`. -/
theorem stepRunsTheDecodedInstruction : Obligations.StepRunsTheDecodedInstruction :=
  fun _ _ _ _ => step_of_decode_ok

/-- Settles O8: the three outcomes are those of `issue`, on the state with the command taken off the host's list. -/
theorem commandIsPerformedFaultedOrIgnored : Obligations.CommandIsPerformedFaultedOrIgnored := by
  intro s c rest hp
  rw [step_act hp]
  exact issue_cases c { s with pending := rest }

/-- With `FLT` = 0 the unit refuses a selector only where it would read an unwritten `R`. -/
theorem unwritten_of_not_accepts {asel : OpASel} {s : State} (hf : s.flt = false) (h : ¬ Accepts asel s) :
    asel = .regR ∧ s.rv = false := by
  simpa [Accepts, hf] using h

/-- Settles O12: a unit that refuses the selector takes `R_UNWRITTEN`; one that accepts it either divides by 0 or performs the
command, which leaves `FLT` = 0. -/
theorem operationsFaultOnlyForTheirCauses : Obligations.OperationsFaultOnlyForTheirCauses := by
  intro i s t hi hf ht hflt
  by_cases hs : Accepts i.asel s
  · by_cases hdiv : i.opcode = 0x08#6 ∧ s.ports.b = 0#32
    · obtain ⟨hop, hb⟩ := hdiv
      cases ht.symm.trans (exec_divZero hi hs hop hb)
      exact .inr ⟨(opcode_eq_div32_iff i).mp hop, hb, rfl⟩
    · obtain ⟨v, hv⟩ := exec_value hi hs hdiv
      cases ht.symm.trans hv
      exact absurd hf (ne_false_of_eq_true hflt)
  · obtain ⟨ha, hv⟩ := unwritten_of_not_accepts hf hs
    cases ht.symm.trans (exec_regR_unwritten hi ha hf hv)
    exact .inl ⟨ha, hv, rfl⟩

/-- Settles O17: of the actions without reset a read leaves `R` as it was, and of a command's outcomes only the performed one
writes it. -/
theorem rChangesOnlyByAPerformedCommand : Obligations.RChangesOnlyByAPerformedCommand := by
  intro s t h rest hp hr hs hne
  cases h with
  | issue c =>
    refine ⟨⟨c, rfl⟩, ?_⟩
    rcases commandIsPerformedFaultedOrIgnored s c rest hp with ⟨-, ho⟩ | ⟨-, e, ho⟩ | ⟨hf, v, ho⟩
    · cases ho.symm.trans hs; exact absurd rfl hne
    · cases ho.symm.trans hs; exact absurd rfl hne
    · cases ho.symm.trans hs; exact ⟨hf, hf, rfl⟩
  | readR => cases (step_readR hp).symm.trans hs; exact absurd rfl hne
  | readStatus => cases (step_readStatus hp).symm.trans hs; exact absurd rfl hne
  | reset => cases hr
  | resetDuring c => cases hr

end Sys2Proof.Proofs

/-! PROOFS. The status state along steps and runs (10_state.md R13 to R17): every step keeps it consistent, and a fault stays
until a reset. -/

namespace Sys2Proof.Proofs

open Sys2Proof.Machine

/-! ## Consistency after each update -/

/-- Fault entry writes a code from 1 to 5 (60_exceptions.md R95). -/
theorem code_bounds (e : Cause) : e.code ≠ 0#4 ∧ e.code.toNat ≤ 5 := by
  cases e <;> decide

/-- Reset leaves the status state as at power-up. -/
theorem statusConsistent_resetUnit (s : State) : StatusConsistent (resetUnit s) :=
  ⟨by simp, by simp, fun _ => rfl⟩

/-- Fault entry pairs `FLT` = 1 with a code that is not 0, and leaves `R` and `RV`. -/
theorem statusConsistent_takeFault {s : State} (h : StatusConsistent s) (e : Cause) : StatusConsistent (takeFault e s) := by
  obtain ⟨-, -, hr⟩ := h
  obtain ⟨hne, hle⟩ := code_bounds e
  exact ⟨by simp [hne], hle, hr⟩

/-- Writing a result leaves `FLT` and `CAUSE`, and `R` is then written. -/
theorem statusConsistent_writeR {s : State} (h : StatusConsistent s) (v : Word) : StatusConsistent (writeR v s) := by
  obtain ⟨hflt, hcode, -⟩ := h
  exact ⟨hflt, hcode, fun hv => nomatch hv⟩

/-- Settles O14: the fields of `State.reset`. -/
theorem resetStatusConsistent : Obligations.ResetStatusConsistent :=
  ⟨by decide, by decide, fun _ => rfl⟩

/-- Settles O13: each action of the host makes one of these updates, or none, to fields the invariant speaks of. -/
theorem stepKeepsStatusConsistent : Obligations.StepKeepsStatusConsistent := by
  intro s t hc hs
  cases hp : s.pending with
  | nil => cases (step_idle hp).symm.trans hs; exact hc
  | cons h rest =>
    cases h with
    | issue c =>
      have hi : issue exec c { s with pending := rest } = .next t := (step_act hp).symm.trans hs
      have hc' : StatusConsistent (sample c.ports { s with pending := rest }) := hc
      rcases issue_cases c { s with pending := rest } with ⟨-, ho⟩ | ⟨-, e, ho⟩ | ⟨-, v, ho⟩
      · cases ho.symm.trans hi; exact hc
      · cases ho.symm.trans hi; exact statusConsistent_takeFault hc' e
      · cases ho.symm.trans hi; exact statusConsistent_writeR hc' v
    | reset => cases (step_act hp).symm.trans hs; exact statusConsistent_resetUnit _
    | resetDuring c => cases (step_act hp).symm.trans hs; exact statusConsistent_resetUnit _
    | readR => cases (step_readR hp).symm.trans hs; exact hc
    | readStatus => cases (step_readStatus hp).symm.trans hs; exact hc

/-! ## A faulted unit over a run -/

/-- Two states of a unit agree on `R`, `RV`, `FLT` and `CAUSE`, all that is a unit's own state (10_state.md R11). -/
structure SameStatus (s t : State) : Prop where
  r : t.r = s.r
  rv : t.rv = s.rv
  flt : t.flt = s.flt
  cause : t.cause = s.cause

theorem SameStatus.trans {s t u : State} (h : SameStatus s t) (h' : SameStatus t u) : SameStatus s u :=
  ⟨h'.r.trans h.r, h'.rv.trans h.rv, h'.flt.trans h.flt, h'.cause.trans h.cause⟩

/-- A faulted unit's step without reset takes an action off the host's list and keeps the unit's four items: a command is
ignored, a read changes none. -/
theorem step_faulted {s : State} {h : HostAction} {rest : List HostAction} (hf : s.flt = true)
    (hp : s.pending = h :: rest) (hr : assertsReset h = false) :
    ∃ t, step s = .next t ∧ t.pending = rest ∧ SameStatus s t := by
  cases h with
  | issue c => exact ⟨_, step_ignored hf hp, rfl, ⟨rfl, rfl, rfl, rfl⟩⟩
  | readR => exact ⟨_, step_readR hp, rfl, ⟨rfl, rfl, rfl, rfl⟩⟩
  | readStatus => exact ⟨_, step_readStatus hp, rfl, ⟨rfl, rfl, rfl, rfl⟩⟩
  | reset => cases hr
  | resetDuring c => cases hr

/-- A run of a faulted unit in which the host asserts no reset keeps the unit's four items. -/
theorem run_faulted (k : Nat) : ∀ s : State, s.flt = true → (∀ h ∈ s.pending.take k, assertsReset h = false) →
    ∃ t : State, Host.Core.run core k s = .next t ∧ SameStatus s t := by
  induction k with
  | zero => exact fun s _ _ => ⟨s, rfl, ⟨rfl, rfl, rfl, rfl⟩⟩
  | succ k ih =>
    intro s hf hnone
    cases hp : s.pending with
    | nil =>
      obtain ⟨t, ht, hst⟩ := ih s hf (by simp [hp])
      exact ⟨t, (run_succ_of_step (step_idle hp) k).trans ht, hst⟩
    | cons h rest =>
      rw [hp, List.take_succ_cons, List.forall_mem_cons] at hnone
      obtain ⟨hr, hrest⟩ := hnone
      obtain ⟨u, hu, hpu, hsu⟩ := step_faulted hf hp hr
      obtain ⟨t, ht, hut⟩ := ih u (hsu.flt.trans hf) (by rwa [hpu])
      exact ⟨t, (run_succ_of_step hu k).trans ht, hsu.trans hut⟩

/-- Settles O15, by `run_faulted`. -/
theorem faultStaysUntilReset : Obligations.FaultStaysUntilReset := by
  intro k s hf hnone
  obtain ⟨t, ht, hst⟩ := run_faulted k s hf hnone
  exact ⟨t, ht, hst.r, hst.rv, hst.flt.trans hf, hst.cause⟩

end Sys2Proof.Proofs

/-! PROOFS. The operands of a command: a port the operation does not read has no effect (10_state.md R12), and the line that
lists the operands assembles to the command (30_encoding.md R44). -/

namespace Sys2Proof.Proofs

open Sys2Proof.Machine

/-! ## Ports that are not read -/

/-- An operation that does not read port `B` has the same outcome for every value on it (30_encoding.md R40). -/
theorem operation_eq_of_not_readsB {i : Instr} (h : i.readsB = false) (a b b' c : Word) :
    operation i a b c = operation i a b' c := by
  cases i <;> cases h <;> rfl

/-- An operation that does not read port `C` has the same outcome for every value on it (30_encoding.md R40). -/
theorem operation_eq_of_not_readsC {i : Instr} (h : i.readsC = false) (a b c c' : Word) :
    operation i a b c = operation i a b c' := by
  cases i <;> cases h <;> rfl

/-- An operation's outcome depends on the ports it reads alone. -/
theorem operation_congr {i : Instr} {b b' c c' : Word} (hb : i.readsB = true → b' = b) (hc : i.readsC = true → c' = c)
    (a : Word) : operation i a b' c' = operation i a b c := by
  have hB : operation i a b' c' = operation i a b c' := by
    cases h : i.readsB with
    | true => rw [hb h]
    | false => exact operation_eq_of_not_readsB h a b' b c'
  have hC : operation i a b c' = operation i a b c := by
    cases h : i.readsC with
    | true => rw [hc h]
    | false => exact operation_eq_of_not_readsC h a b c' c
  exact hB.trans hC

/-- The first operand depends on port `A` only with `ASEL` = 0 (30_encoding.md R39). -/
theorem opA_sample {asel : OpASel} {s : State} {p : Ports} (h : asel = .portA → p.a = s.ports.a) :
    opA asel (sample p s) = opA asel s := by
  cases asel with
  | portA => exact h rfl
  | regR => rfl

/-- Raising a fault does not depend on the operand words and leaves them. -/
theorem raiseFault_sample {e : Cause} {s t : State} (p : Ports) (h : raiseFault e s = .next t) :
    raiseFault e (sample p s) = .next (sample p t) := by
  cases hf : s.flt with
  | true =>
    have hst : s = t := by simpa [raiseFault, hf] using h
    subst hst
    simp [raiseFault, hf]
  | false =>
    cases (raiseFault_eq hf e).symm.trans h
    exact raiseFault_eq (s := sample p s) hf e

/-- Performing a command depends on the operand words through the operation's outcome alone, and leaves them. -/
theorem perform_sample {asel : OpASel} {s t : State} {f g : Word → Executed} {p : Ports}
    (hfg : g (opA asel (sample p s)) = f (opA asel s)) (h : perform asel s f = .next t) :
    perform asel (sample p s) g = .next (sample p t) := by
  cases hf : s.flt with
  | true =>
    cases (perform_ignored hf asel f).symm.trans h
    exact perform_ignored (s := sample p s) hf asel g
  | false =>
    have hread : opAReadable asel (sample p s) = opAReadable asel s := by cases asel <;> rfl
    cases ha : opAReadable asel s with
    | false =>
      cases (perform_unwritten hf ha f).symm.trans h
      exact perform_unwritten (s := sample p s) hf (hread.trans ha) g
    | true =>
      cases ho : f (opA asel s) with
      | value v =>
        cases (perform_value hf ha ho).symm.trans h
        exact perform_value (s := sample p s) hf (hread.trans ha) (hfg.trans ho)
      | fault e =>
        cases (perform_fault hf ha ho).symm.trans h
        exact perform_fault (s := sample p s) hf (hread.trans ha) (hfg.trans ho)

/-- The one ill-formed instruction, RSHIFT_ROUND by 0, raises its word's fault (log entry 10). -/
theorem exec_of_not_wellFormed {i : Instr} (hi : i.wellFormed = false) (s : State) : exec i s = raiseFault .badShift s := by
  cases i with
  | rshiftRound asel sh =>
    have hsh : sh = 0#5 := by simpa [Instr.wellFormed] using hi
    exact if_pos hsh
  | _ => cases hi

/-- Settles O22: the first operand and the operation's outcome are the same with the changed operand words. -/
theorem unreadPortsHaveNoEffect : Obligations.UnreadPortsHaveNoEffect := by
  intro i s t p ha hb hc ht
  show exec i (sample p s) = .next (sample p t)
  cases hi : i.wellFormed with
  | false =>
    rw [exec_of_not_wellFormed hi] at ht ⊢
    exact raiseFault_sample p ht
  | true =>
    rw [exec_eq_perform i hi] at ht ⊢
    refine perform_sample ?_ ht
    rw [opA_sample ha]
    exact operation_congr hb hc _

/-! ## Assembly of every operation -/

/-- No mnemonic of the opcode map is a pseudo-mnemonic (30_encoding.md R45). -/
theorem mnemonic_ne_pseudo (i : Instr) :
    ∀ p ∈ ["LDR", "CLR", "NOT", "CLAMP", "CLAMP16", "SKP_ADD_SAT32", "SKP_SAT16"], (mnemonic i).toList ≠ p.toList := by
  cases i
  all_goals
    simp only [mnemonic]
    decide

/-- The line of a mnemonic is its own expansion. -/
theorem expand_mnemonic (i : Instr) (ops : List AsmOperand) :
    expand ⟨(mnemonic i).toList, ops⟩ = ⟨(mnemonic i).toList, ops⟩ := by
  have h := mnemonic_ne_pseudo i
  simp only [List.forall_mem_cons] at h
  simp only [expand, h, if_false]

/-- A mnemonic names its own row of the opcode map, whose format and ports do not depend on the fields. -/
theorem operationNamed_mnemonic (i : Instr) : ∃ mk : OpASel → Shift → Instr,
    operationNamed (mnemonic i).toList = some mk ∧ mk i.asel i.sh = i ∧ (mk .portA 0#5).readsB = i.readsB ∧
      (mk .portA 0#5).readsC = i.readsC ∧ (mk .portA 0#5).format = i.format := by
  cases i
  all_goals
    simp only [mnemonic]
    refine ⟨_, rfl, ?_⟩
    exact ⟨rfl, rfl, rfl, rfl⟩

/-- The first operand of a line, `R` or a value, gives its selector and the word on port `A`. -/
theorem firstOperand_of_asel (asel : OpASel) (a : Word) :
    firstOperand (if asel = .regR then .regR else .val a) = some (asel, if asel = .regR then 0#32 else a) := by
  cases asel <;> rfl

/-- A value for a port that is read, and no operand for one that is not. -/
theorem portOperand_of_reads (reads : Bool) (v : Word) (rest : List AsmOperand) :
    portOperand reads ((if reads then [.val v] else []) ++ rest) = some (if reads then v else 0#32, rest) := by
  cases reads <;> rfl

/-- The shift amount of a CMD-S operation, and none for a CMD-N one, whose `SH` is 0 (30_encoding.md R37). -/
theorem shiftOperand_of_format (i : Instr) :
    shiftOperand i.format (if i.format = .cmdS then [.sh i.sh] else []) = some i.sh := by
  cases h : i.format with
  | cmdN => rw [Laws.Encoding.sh_of_cmdN h]; rfl
  | cmdS => rfl

/-- Settles O24: the mnemonic names the instruction's row, and each operand in turn gives its field or its port. -/
theorem everyOperationAssembles : Obligations.EveryOperationAssembles := by
  intro i a b c
  obtain ⟨mk, hname, hmk, hB, hC, hformat⟩ := operationNamed_mnemonic i
  simp only [assembleLine, expand_mnemonic, hname, Option.bind_some, commandOf, hB, hC, hformat, firstOperand_of_asel,
    List.append_assoc, portOperand_of_reads, shiftOperand_of_format, Option.map_some, hmk]

end Sys2Proof.Proofs

/-! PROOFS. What the spec derives of the saturating operations (40_saturating.md): the other forms of ADD_SAT32 and LIMIT32, and
the corner cases of ADD_POS_SAT32 and LSHIFT_SAT32. -/

namespace Sys2Proof.Proofs

open Sys2Proof.Machine

/-- An accepted command whose operation has a value writes it, and nothing else changes. -/
theorem exec_of_operation {i : Instr} {s : State} {v : Word} (hi : i.wellFormed = true) (hs : Accepts i.asel s)
    (hv : operation i (opA i.asel s) s.ports.b s.ports.c = .value v) :
    exec i s = .next { s with r := v, rv := true } := by
  rw [exec_eq_perform i hi]
  exact perform_value hs.1 (opAReadable_of_accepts hs) hv

/-! ## Limits in either order -/

/-- LIMIT32 with its limits in reverse order is LIMIT32 with them in order. -/
theorem limit32_swap {l1 l2 : Word} (h : l2.toInt < l1.toInt) (a : Word) : limit32 a l1 l2 = limit32 a l2 l1 := by
  have h : s32 l2 < s32 l1 := h
  rw [limit32, limit32, if_pos h, if_neg h.not_gt]

theorem limit32_eq (a l1 l2 : Word) :
    limit32 a l1 l2 = BitVec.ofInt 32 (max (min l1.toInt l2.toInt) (min (max l1.toInt l2.toInt) a.toInt)) := by
  rcases le_or_gt l1.toInt l2.toInt with h | h
  · rw [limit32_of_le a h, min_eq_left h, max_eq_right h]
  · rw [limit32_swap h, limit32_of_le a h.le, min_eq_right h.le, max_eq_left h.le]

/-- Settles O30, by the clamp to the limits in order. -/
theorem limit32ClampsBetweenItsLimits : Obligations.Limit32ClampsBetweenItsLimits :=
  writesResult (fun _ => rfl) (fun _ => rfl) fun _ a b c => congrArg Executed.value (limit32_eq a b c)

/-! ## The wrapped sum and its sign -/

/-- The wrapped sum is the exact one, or off by 2^32 where that leaves the range. -/
theorem toInt_add_eq (a b : Word) :
    (a + b).toInt =
      if a.toInt + b.toInt < -2147483648 then a.toInt + b.toInt + 4294967296
      else if 2147483647 < a.toInt + b.toInt then a.toInt + b.toInt - 4294967296
      else a.toInt + b.toInt := by
  obtain ⟨ha, ha'⟩ : -2147483648 ≤ a.toInt ∧ a.toInt ≤ 2147483647 := s32_bounds a
  obtain ⟨hb, hb'⟩ : -2147483648 ≤ b.toInt ∧ b.toInt ≤ 2147483647 := s32_bounds b
  rw [BitVec.toInt_add, Int.bmod_def]
  split_ifs <;> omega

/-- The mask 0x80000000 tests the sign. -/
theorem and_signMask_eq_zero_iff (x : Word) : x &&& 0x80000000#32 = 0#32 ↔ 0 ≤ x.toInt := by
  have hmask : ∀ k < 32, (0x80000000#32).getLsbD k = decide (k = 31) := by decide
  have hmsb : 0 ≤ x.toInt ↔ x.getLsbD 31 = false := by
    rw [← not_lt, ← decide_eq_false_iff_not, ← BitVec.msb_eq_toInt, BitVec.msb_eq_getLsbD_last]
  rw [hmsb, BitVec.eq_of_getLsbD_eq_iff]
  refine ⟨fun h => by simpa using h 31 (by decide), fun h k hk => ?_⟩
  rw [BitVec.getLsbD_and, hmask k hk]
  by_cases h31 : k = 31
  · subst h31
    simpa using h
  · simp [h31]

/-- The and of two words is negative where both are. -/
theorem toInt_and_nonneg_iff (a b : Word) : 0 ≤ (a &&& b).toInt ↔ 0 ≤ a.toInt ∨ 0 ≤ b.toInt := by
  have h := BitVec.msb_and (x := a) (y := b)
  simp only [BitVec.msb_eq_toInt, ← Bool.decide_and, decide_eq_decide] at h
  omega

/-- The or of two words is negative where one is. -/
theorem toInt_or_nonneg_iff (a b : Word) : 0 ≤ (a ||| b).toInt ↔ 0 ≤ a.toInt ∧ 0 ≤ b.toInt := by
  have h := BitVec.msb_or (x := a) (y := b)
  simp only [BitVec.msb_eq_toInt, ← Bool.decide_or, decide_eq_decide] at h
  omega

/-- ADD_SAT32 by where the exact sum lies. -/
theorem addSat32_eq_cases (a b : Word) :
    addSat32 a b =
      if a.toInt + b.toInt < -2147483648 then 0x80000000#32
      else if 2147483647 < a.toInt + b.toInt then 0x7FFFFFFF#32
      else a + b := by
  rw [addSat32_eq]
  split_ifs with hlo hhi
  · rw [max_eq_left (by omega)]
    rfl
  · rw [min_eq_left hhi.le]
    rfl
  · rw [min_eq_right (by omega), max_eq_right (by omega), BitVec.ofInt_add, BitVec.ofInt_toInt, BitVec.ofInt_toInt]

/-- The sign-bit test of R47: the exact sum is out of range where the wrapped sum has the other sign than both operands. -/
theorem addSat32_eq_signBitTest (a b : Word) :
    addSat32 a b =
      if (a + b) &&& 0x80000000#32 = 0#32 then
        (if (a &&& b) &&& 0x80000000#32 ≠ 0#32 then 0x80000000#32 else a + b)
      else
        (if (a ||| b) &&& 0x80000000#32 = 0#32 then 0x7FFFFFFF#32 else a + b) := by
  obtain ⟨ha, ha'⟩ : -2147483648 ≤ a.toInt ∧ a.toInt ≤ 2147483647 := s32_bounds a
  obtain ⟨hb, hb'⟩ : -2147483648 ≤ b.toInt ∧ b.toInt ≤ 2147483647 := s32_bounds b
  simp only [ne_eq, and_signMask_eq_zero_iff, toInt_and_nonneg_iff, toInt_or_nonneg_iff, toInt_add_eq, addSat32_eq_cases]
  by_cases hlo : a.toInt + b.toInt < -2147483648
  · rw [if_pos hlo, if_pos hlo, if_pos (by omega), if_pos (by omega)]
  by_cases hhi : 2147483647 < a.toInt + b.toInt
  · simp only [if_neg hlo, if_pos hhi]
    rw [if_neg (by omega), if_pos (by omega)]
  · simp only [if_neg hlo, if_neg hhi]
    by_cases hs : 0 ≤ a.toInt + b.toInt
    · rw [if_pos hs, if_neg (by omega)]
    · rw [if_neg hs, if_neg (by omega)]

/-- Settles O33, by the value of ADD_SAT32. -/
theorem addSat32IsTheSignBitTest : Obligations.AddSat32IsTheSignBitTest :=
  writesResult (fun _ => rfl) (fun _ => rfl) fun _ a b _ => congrArg Executed.value (addSat32_eq_signBitTest a b)

/-- The sum of two numbers that are not negative wraps to a negative one exactly where it is above the range. -/
theorem addPosSat32_of_nonneg {a b : Word} (ha : 0 ≤ a.toInt) (hb : 0 ≤ b.toInt) :
    addPosSat32 a b = BitVec.ofInt 32 (min (a.toInt + b.toInt) 2147483647) := by
  obtain ⟨-, ha'⟩ : -2147483648 ≤ a.toInt ∧ a.toInt ≤ 2147483647 := s32_bounds a
  obtain ⟨-, hb'⟩ : -2147483648 ≤ b.toInt ∧ b.toInt ≤ 2147483647 := s32_bounds b
  have hsum := toInt_add_eq a b
  rw [if_neg (by omega)] at hsum
  rw [addPosSat32_eq]
  by_cases hbig : 2147483647 < a.toInt + b.toInt
  · rw [if_pos hbig] at hsum
    rw [if_pos (by omega), min_eq_right hbig.le]
    rfl
  · rw [if_neg hbig] at hsum
    rw [if_neg (by omega), min_eq_left (not_lt.mp hbig), ← hsum, BitVec.ofInt_toInt]

/-- Settles O34, by the value of ADD_POS_SAT32 on such operands. -/
theorem addPosSat32OfNonNegatives : Obligations.AddPosSat32OfNonNegatives :=
  fun _ _ hs ha hb => exec_of_operation rfl hs (congrArg Executed.value (addPosSat32_of_nonneg ha hb))

/-! ## The saturation points of the left shift -/

/-- A shift amount splits 2^31. -/
theorem pow_shift_mul_pow (sh : Shift) : (2 : Int) ^ (31 - sh.toNat) * 2 ^ sh.toNat = 2147483648 := by
  have := sh.isLt
  rw [← pow_add, show 31 - sh.toNat + sh.toNat = 31 by omega]
  rfl

/-- LSHIFT_SAT32 limits to the ends of the 32-bit range over 2^SH, floored: -2^(31-SH) and 2^(31-SH) - 1. What it limits to
shifts without overflow. -/
theorem toInt_lshiftSat32 (a : Word) (sh : Shift) :
    (lshiftSat32 a sh).toInt = max (-2 ^ (31 - sh.toNat)) (min (2 ^ (31 - sh.toNat) - 1) a.toInt) * 2 ^ sh.toNat := by
  have hpow := pow_shift_mul_pow sh
  have hN : (1 : Int) ≤ 2 ^ sh.toNat := one_le_pow₀ (by decide)
  have hM : (1 : Int) ≤ 2 ^ (31 - sh.toNat) := one_le_pow₀ (by decide)
  have hlo := floorShift_eq_floor (-2147483648) sh.toNat
  have hhi := floorShift_eq_floor 2147483647 sh.toNat
  push_cast at hlo hhi
  rw [lshiftSat32_eq, ← hlo, ← hhi, floorShift, floorShift]
  generalize (2 : Int) ^ sh.toNat = N at *
  generalize (2 : Int) ^ (31 - sh.toNat) = M at *
  obtain ⟨hlo, -⟩ := (Int.ediv_emod_unique (a := -2147483648) (r := 0) (q := -M) hN).mpr ⟨by linarith, by omega, by omega⟩
  obtain ⟨hhi, -⟩ := (Int.ediv_emod_unique (a := 2147483647) (r := N - 1) (q := M - 1) hN).mpr
    ⟨by linarith, by omega, by omega⟩
  rw [hlo, hhi]
  have hmin := mul_le_mul_of_nonneg_right (le_max_left (-M) (min (M - 1) a.toInt)) (by omega : 0 ≤ N)
  have hmax := mul_le_mul_of_nonneg_right (show max (-M) (min (M - 1) a.toInt) ≤ M - 1 by omega) (by omega : 0 ≤ N)
  exact s32_wrap32 (by linarith) (by linarith)

/-- Settles O32: where the operand is below, between and above the limits. -/
theorem lshiftSat32SaturationPoints : Obligations.LshiftSat32SaturationPoints := by
  intro asel s sh hs
  refine ⟨lshiftSat32 (opA asel s) sh, exec_of_operation rfl hs rfl, ?_⟩
  have hpow := pow_shift_mul_pow sh
  have hN : (0 : Int) < 2 ^ sh.toNat := pow_pos (by decide) _
  rw [toInt_lshiftSat32]
  generalize (opA asel s).toInt = a
  generalize (2 : Int) ^ sh.toNat = N at *
  generalize (2 : Int) ^ (31 - sh.toNat) = M at *
  refine ⟨fun ⟨hlo, hhi⟩ => ?_, fun hlo => ?_, fun hhi => ?_⟩
  · have hlo : -M ≤ a := le_of_mul_le_mul_right (by linarith) hN
    have hhi : a < M := lt_of_mul_lt_mul_right (by linarith) hN.le
    rw [min_eq_right (by omega), max_eq_right hlo]
  · have hlo : a < -M := lt_of_mul_lt_mul_right (by linarith) hN.le
    rw [max_eq_left (by omega)]
    linarith
  · have hhi : M ≤ a := le_of_mul_le_mul_right (by linarith) hN
    have hM : 0 < M := pos_of_mul_pos_left (by linarith) hN.le
    rw [min_eq_left (by omega), max_eq_right (by omega)]
    linarith

end Sys2Proof.Proofs

/-! PROOFS. The reference library's 32-bit forms of the rounding shift (41_shift_round.md) and of the Q-format multiplies
(42_mac.md), with the range, the bias and the Q-format the spec derives of them. -/

namespace Sys2Proof.Proofs

open Sys2Proof.Machine

/-! ## The reference library's expressions as numbers -/

/-- The signed right shift of a word. -/
theorem sshiftRight_eq (x : Word) (s : Nat) : x.sshiftRight s = wrap32 (asr x s) := by
  rw [BitVec.sshiftRight, Int.shiftRight_eq_div_pow, wrap32, asr, floorShift, s32]
  push_cast
  rfl

/-- A mask of low bits is the remainder by a power of two, of the signed value as of the unsigned one. -/
theorem toInt_and_mask (x : Word) {k : Nat} (hk : k < 32) :
    (x &&& BitVec.ofNat 32 (2 ^ k - 1)).toInt = x.toInt % 2 ^ k := by
  have hdvd : (2 : Nat) ^ k ∣ 2 ^ 32 := pow_dvd_pow 2 hk.le
  have hle : (2 : Nat) ^ k ≤ 2 ^ 31 := pow_le_pow_right₀ (by decide) (by omega)
  have hpos : 0 < (2 : Nat) ^ k := by positivity
  have hnat : (x &&& BitVec.ofNat 32 (2 ^ k - 1)).toNat = x.toNat % 2 ^ k := by
    rw [BitVec.toNat_and, BitVec.toNat_ofNat, Nat.mod_eq_of_lt (by omega), Nat.and_two_pow_sub_one_eq_mod]
  have hlt := Nat.mod_lt x.toNat hpos
  have hmod : x.toInt % 2 ^ k = (x.toNat : Int) % 2 ^ k := by
    have hcast : (2 : Int) ^ k ∣ 2 ^ 32 := pow_dvd_pow 2 hk.le
    rw [BitVec.toInt_eq_toNat_bmod, ← Int.emod_emod_of_dvd _ hcast]
    exact (congrArg (· % 2 ^ k) (Int.bmod_emod (x := x.toNat) (m := 2 ^ 32))).trans (Int.emod_emod_of_dvd _ hcast)
  rw [BitVec.toInt_eq_toNat_of_lt (by omega), hnat, hmod]
  push_cast
  rfl

/-- Settles O50, by `toInt_and_mask`. -/
theorem and32WithAMaskIsARemainder : Obligations.And32WithAMaskIsARemainder := by
  intro asel s k hk hs hb
  refine ⟨_, exec_of_operation rfl hs rfl, ?_⟩
  rw [and32, hb]
  exact toInt_and_mask _ hk

/-! ## The rounding shift -/

/-- The rounding shift stays in the range of the shift's result, its upper end included (41_shift_round.md). -/
theorem floorShift_round_bounds (a : Word) (sh : Shift) :
    -2 ^ (31 - sh.toNat) ≤ floorShift (s32 a + 2 ^ (sh.toNat - 1)) sh.toNat ∧
      floorShift (s32 a + 2 ^ (sh.toNat - 1)) sh.toNat ≤ 2 ^ (31 - sh.toNat) := by
  have hpow := pow_shift_mul_pow sh
  have hN : (0 : Int) < 2 ^ sh.toNat := by positivity
  have hH : (0 : Int) < 2 ^ (sh.toNat - 1) := by positivity
  have hHN : (2 : Int) ^ (sh.toNat - 1) ≤ 2 ^ sh.toNat := pow_le_pow_right₀ (by decide) (Nat.sub_le _ _)
  obtain ⟨hlo, hhi⟩ := s32_bounds a
  rw [floorShift]
  constructor
  · exact Int.le_ediv_of_mul_le hN (by linarith)
  · exact Int.le_of_lt_add_one (Int.ediv_lt_of_lt_mul hN (by linarith))

/-- The rounded value fits: it is the result read as signed. -/
theorem toInt_rshiftRound (a : Word) {sh : Shift} (hsh : sh ≠ 0#5) :
    (rshiftRound a sh).toInt = floorShift (s32 a + 2 ^ (sh.toNat - 1)) sh.toNat := by
  have h0 : sh.toNat ≠ 0 := fun h => hsh (BitVec.eq_of_toNat_eq h)
  have hM : (2 : Int) ^ (31 - sh.toNat) ≤ 2 ^ 30 := pow_le_pow_right₀ (by decide) (by omega)
  obtain ⟨hlo, hhi⟩ := floorShift_round_bounds a sh
  exact s32_wrap32 (by linarith) (by linarith)

/-- Shifting by 1 with rounding adds the bit shifted out. -/
theorem rshiftRound_one (a : Word) : rshiftRound a 1#5 = a.sshiftRight 1 + (a &&& 1#32) := by
  have hbit : a &&& 1#32 = wrap32 (s32 a % 2) := by
    rw [← wrap32_s32 (a &&& 1#32)]
    exact congrArg wrap32 (toInt_and_mask a (k := 1) (by decide))
  rw [sshiftRight_eq, hbit, ← wrap32_add]
  refine congrArg wrap32 ?_
  show (s32 a + 2 ^ 0) / 2 ^ 1 = s32 a / 2 ^ 1 + s32 a % 2
  omega

/-- Shifting further with rounding shifts all but the last place, adds 1 and shifts that place: the sum fits, since at least
one place was shifted before. -/
theorem rshiftRound_of_one_lt (a : Word) {sh : Shift} (h : 1 < sh.toNat) :
    rshiftRound a sh = (a.sshiftRight (sh.toNat - 1) + 1#32).sshiftRight 1 := by
  obtain ⟨n, hn⟩ : ∃ n, sh.toNat = n + 2 := ⟨sh.toNat - 2, by omega⟩
  have hsum : a.sshiftRight (n + 1) + 1#32 = wrap32 (asr a (n + 1) + 1) := by
    rw [sshiftRight_eq, wrap32_add]
    rfl
  have hH : (2 : Int) ≤ 2 ^ (n + 1) := by
    simpa using pow_le_pow_right₀ (show (1 : Int) ≤ 2 by decide) (show 1 ≤ n + 1 by omega)
  obtain ⟨hlo, hhi⟩ := s32_bounds a
  have hlo' : -1073741824 ≤ asr a (n + 1) := Int.le_ediv_of_mul_le (by omega) (by linarith)
  have hhi' : asr a (n + 1) < 1073741824 := Int.ediv_lt_of_lt_mul (by omega) (by linarith)
  rw [rshiftRound, hn, show n + 2 - 1 = n + 1 by omega, hsum, sshiftRight_eq]
  refine congrArg wrap32 ?_
  calc floorShift (s32 a + 2 ^ (n + 1)) (n + 2)
      = (s32 a + 2 ^ (n + 1)) / 2 ^ (n + 1) / 2 ^ 1 := by
        rw [floorShift, pow_succ (n := n + 1), Int.ediv_ediv_of_nonneg (by omega), pow_one]
    _ = (asr a (n + 1) + 1) / 2 ^ 1 := by
        rw [Int.add_ediv_of_dvd_right (dvd_refl _), Int.ediv_self (by omega)]
        rfl
    _ = asr (wrap32 (asr a (n + 1) + 1)) 1 := by
        show _ = floorShift (s32 (wrap32 (asr a (n + 1) + 1))) 1
        rw [s32_wrap32 (by omega) (by omega), floorShift]

/-- Settles O36: the reference form by the two cases of `SH`, the value and its range by `toInt_rshiftRound`. -/
theorem rshiftRoundReferenceForm : Obligations.RshiftRoundReferenceForm := by
  intro asel s sh hsh hs
  obtain ⟨hlo, hhi⟩ := floorShift_round_bounds (opA asel s) sh
  have hvalue := toInt_rshiftRound (opA asel s) hsh
  refine ⟨rshiftRound (opA asel s) sh, exec_of_operation (wellFormed_rshiftRound hsh asel) hs rfl, ?_, ?_,
    hvalue ▸ hlo, hvalue ▸ hhi⟩
  · split
    case isTrue h1 => rw [h1, rshiftRound_one]
    case isFalse h1 =>
      have h0 : sh.toNat ≠ 0 := fun h => hsh (BitVec.eq_of_toNat_eq h)
      have h1 : sh.toNat ≠ 1 := fun h => h1 (BitVec.eq_of_toNat_eq h)
      exact rshiftRound_of_one_lt _ (by omega)
  · have hfloor := floorShift_eq_floor (s32 (opA asel s) + 2 ^ (sh.toNat - 1)) sh.toNat
    push_cast at hfloor
    exact hvalue.trans hfloor

/-! ## Partial products -/

/-- A word times a halfword, scaled, from the word's two halves: the product of the low half, which is not negative, fits. -/
theorem wrap32_scaled_halfword (x : Word) {y : Int} (hy : -32768 ≤ y ∧ y ≤ 32767) :
    wrap32 (scaled (s32 x) y) =
      x.sshiftRight 16 * wrap32 y + ((x &&& 0xFFFF#32) * wrap32 y).sshiftRight 16 := by
  have hlow : x &&& 0xFFFF#32 = wrap32 (s32 x % 65536) := by
    rw [← wrap32_s32 (x &&& 0xFFFF#32)]
    exact congrArg wrap32 (toInt_and_mask x (k := 16) (by decide))
  have hsplit := s32_eq_hi16 x
  rw [sshiftRight_eq, hlow, ← wrap32_mul, ← wrap32_mul, sshiftRight_eq, ← wrap32_add, ← hi16_eq_asr]
  have hl0 : 0 ≤ s32 x % 65536 := by omega
  have hl1 : s32 x % 65536 ≤ 65535 := by omega
  generalize s32 x % 65536 = l at *
  have hmin := mul_le_mul_of_nonneg_left hy.1 hl0
  have hmax := mul_le_mul_of_nonneg_left hy.2 hl0
  rw [asr, s32_wrap32 (by linarith) (by linarith), scaled, floorShift, floorShift, hsplit]
  refine congrArg wrap32 ?_
  rw [show (hi16 x * 65536 + l) * y = l * y + hi16 x * y * 2 ^ 16 by ring, Int.add_mul_ediv_right _ _ (by decide), add_comm]

/-- The bottom halfword, sign-extended. -/
theorem signExtend_bottom (x : Word) : (x.setWidth 16).signExtend 32 = wrap32 (lo16 x) := by
  rw [lo16_eq_bottom]
  rfl

/-- The top halfword, by a signed shift. -/
theorem sshiftRight_sixteen (x : Word) : x.sshiftRight 16 = wrap32 (hi16 x) := by
  rw [sshiftRight_eq, hi16_eq_asr]

theorem smulwb_eq_partialProducts (a b : Word) :
    smulwb a b = a.sshiftRight 16 * (b.setWidth 16).signExtend 32 +
      ((a &&& 0xFFFF#32) * (b.setWidth 16).signExtend 32).sshiftRight 16 := by
  rw [smulwb, wrap32_scaled_halfword a (lo16_bounds b), signExtend_bottom]

theorem smulwt_eq_partialProducts (a b : Word) :
    smulwt a b = a.sshiftRight 16 * b.sshiftRight 16 + ((a &&& 0xFFFF#32) * b.sshiftRight 16).sshiftRight 16 := by
  rw [smulwt, wrap32_scaled_halfword a (hi16_bounds b), sshiftRight_sixteen b]

/-- SMLAWT accumulates the value of SMULWT. -/
theorem smlawt_eq_partialProducts (a b c : Word) :
    smlawt a b c =
      a + b.sshiftRight 16 * c.sshiftRight 16 + ((b &&& 0xFFFF#32) * c.sshiftRight 16).sshiftRight 16 := by
  rw [smlawt, wrap32_add, wrap32_s32, BitVec.add_assoc, ← smulwt_eq_partialProducts, smulwt]

/-- Settles O42, by the partial products of the three operations. -/
theorem wordByHalfwordReferenceForms : Obligations.WordByHalfwordReferenceForms :=
  ⟨writesResult (fun _ => rfl) (fun _ => rfl) fun _ a b _ => congrArg Executed.value (smulwb_eq_partialProducts a b),
    writesResult (fun _ => rfl) (fun _ => rfl) fun _ a b _ => congrArg Executed.value (smulwt_eq_partialProducts a b),
    writesResult (fun _ => rfl) (fun _ => rfl) fun _ a b c => congrArg Executed.value (smlawt_eq_partialProducts a b c)⟩

/-- A word is its signed bottom halfword and 2^16 times the word rounded to its top halfword: where the bottom one is negative,
the rounding is up. -/
theorem s32_eq_lo16_add_round (x : Word) : s32 x = lo16 x + (s32 x + 32768) / 65536 * 65536 := by
  obtain ⟨hlo, hhi⟩ := lo16_bounds x
  have hmod := lo16_emod x
  omega

/-- The scaled product by a word, from its halves so split. -/
theorem wrap32_scaled_word (x y : Word) :
    wrap32 (scaled (s32 x) (s32 y)) = smulwb x y + x * rshiftRound y 16#5 := by
  have hround : rshiftRound y 16#5 = wrap32 ((s32 y + 32768) / 65536) := rfl
  have hprod : scaled (s32 x) (s32 y) = scaled (s32 x) (lo16 y) + s32 x * ((s32 y + 32768) / 65536) := by
    have hsplit := s32_eq_lo16_add_round y
    generalize (s32 y + 32768) / 65536 = r at *
    rw [scaled, scaled, floorShift, floorShift, hsplit,
      show s32 x * (lo16 y + r * 65536) = s32 x * lo16 y + s32 x * r * 2 ^ 16 by ring,
      Int.add_mul_ediv_right _ _ (by decide)]
  rw [hprod, wrap32_add, wrap32_mul, wrap32_s32, ← hround, smulwb]

theorem smulww_eq_round (a b : Word) : smulww a b = smulwb a b + a * rshiftRound b 16#5 :=
  wrap32_scaled_word a b

theorem smlaww_eq_round (a b c : Word) : smlaww a b c = smlawb a b c + b * rshiftRound c 16#5 := by
  rw [smlaww, wrap32_add, wrap32_scaled_word, ← BitVec.add_assoc, smulwb, ← wrap32_add, smlawb]

/-- Settles O43, by the split of the second factor. -/
theorem wordByWordReferenceForms : Obligations.WordByWordReferenceForms :=
  ⟨writesResult (fun _ => rfl) (fun _ => rfl) fun _ a b _ => congrArg Executed.value (smulww_eq_round a b),
    writesResult (fun _ => rfl) (fun _ => rfl) fun _ a b c => congrArg Executed.value (smlaww_eq_round a b c)⟩

/-! ## Bias -/

/-- Scaling drops a part of the product in [0, 1). -/
theorem scaled_bias (x y : Int) : (scaled x y : ℚ) ≤ x * y / 2 ^ 16 ∧ (x * y : ℚ) / 2 ^ 16 < scaled x y + 1 := by
  rw [scaled_eq_floor, ← Int.cast_mul]
  exact ⟨Int.floor_le _, Int.lt_floor_add_one _⟩

theorem toInt_wrap32_scaled (x : Word) {y : Int} (hy : -32768 ≤ y ∧ y ≤ 32767) :
    (wrap32 (scaled (s32 x) y)).toInt = scaled (s32 x) y := by
  obtain ⟨hlo, hhi⟩ := scaled_bounds x hy
  exact s32_wrap32 (by omega) (by omega)

/-- Settles O44: the scaled product fits, so the result read as signed is it. -/
theorem wordByHalfwordBias : Obligations.WordByHalfwordBias := by
  intro asel s hs
  refine ⟨⟨_, exec_of_operation rfl hs rfl, ?_⟩, ⟨_, exec_of_operation rfl hs rfl, ?_⟩⟩
  · rw [smulwb, lo16_eq_bottom, toInt_wrap32_scaled _ (bottom_bounds _)]
    exact scaled_bias _ _
  · rw [smulwt, hi16_eq_top, toInt_wrap32_scaled _ (top_bounds _)]
    exact scaled_bias _ _

/-! ## Q-format -/

/-- A product of integers read as Q(x+y) is the product of its factors read as Qx and Qy. -/
theorem mul_div_pow_add (m n : Int) (x y : Nat) : ((m * n : Int) : ℚ) / 2 ^ (x + y) = m / 2 ^ x * (n / 2 ^ y) := by
  rw [Int.cast_mul, pow_add, div_mul_div_comm]

/-- A product that fits, written and read as Q(x+y). -/
theorem qValue_product {m n : Int} (h : -1073709056 ≤ m * n ∧ m * n ≤ 1073741824) (x y : Nat) :
    qValue (x + y) (BitVec.ofInt 32 (m * n)) = (m / 2 ^ x : ℚ) * (n / 2 ^ y : ℚ) := by
  have hfit : (BitVec.ofInt 32 (m * n)).toInt = m * n := s32_wrap32 (by omega) (by omega)
  rw [qValue, hfit, mul_div_pow_add]

/-- An accumulation that fits, written and read as Q(x+y). -/
theorem qValue_accumulation {a : Word} {m n : Int} (h : -2147483648 ≤ a.toInt + m * n ∧ a.toInt + m * n ≤ 2147483647)
    (x y : Nat) :
    qValue (x + y) (BitVec.ofInt 32 (a.toInt + m * n)) = qValue (x + y) a + (m / 2 ^ x : ℚ) * (n / 2 ^ y : ℚ) := by
  have hfit : (BitVec.ofInt 32 (a.toInt + m * n)).toInt = a.toInt + m * n := s32_wrap32 h.1 h.2
  rw [qValue, hfit, Int.cast_add, add_div, mul_div_pow_add, qValue]

/-- Settles O45: the values of the four operations, the products always and the accumulations by hypothesis in range. -/
theorem qFormatOfHalfwordProducts : Obligations.QFormatOfHalfwordProducts := by
  intro x y asel s hs
  refine ⟨⟨_, exec_of_operation rfl hs rfl, ?_⟩, ⟨_, exec_of_operation rfl hs rfl, ?_⟩,
    ⟨_, exec_of_operation rfl hs rfl, fun h => ?_⟩, ⟨_, exec_of_operation rfl hs rfl, fun h => ?_⟩⟩
  · rw [smulbb_eq]
    exact qValue_product (halfword_mul_bounds (bottom_bounds _) (bottom_bounds _)) x y
  · rw [smulbt_eq]
    exact qValue_product (halfword_mul_bounds (bottom_bounds _) (top_bounds _)) x y
  · rw [smlabb_eq]
    exact qValue_accumulation h x y
  · rw [smlabt_eq]
    exact qValue_accumulation h x y

/-! ## Overflowing corners (60_exceptions.md section 6) -/

/-- Settles O53: the four operations' values on the corner operands. -/
theorem overflowingCornersDoNotFault : Obligations.OverflowingCornersDoNotFault := by
  intro s hf ha
  have hs : Accepts .portA s := ⟨hf, fun h => nomatch h⟩
  have hopA : opA .portA s = 0x80000000#32 := ha
  refine ⟨exec_of_operation rfl hs ?abs, exec_of_operation rfl hs ?neg, fun hb =>
    ⟨exec_of_operation rfl hs ?div, exec_of_operation rfl hs ?mul⟩⟩
  case abs => simp only [Instr.asel, hopA, operation]; decide
  case neg => simp only [Instr.asel, hopA, operation]; decide
  case div => simp only [Instr.asel, hopA, hb, operation]; decide
  case mul => simp only [Instr.asel, hopA, hb, operation]; decide

end Sys2Proof.Proofs
